-- ==== Sys2Proof/Word.lean ====
section
/-! DEFINITION. The machine's words: 8-bit registers and bytes, 16-bit words, 12-bit address fields, 64-bit
timestamps, and the sixteen register selectors (spec/00_scope.md R4, R5, R11). -/

namespace Sys2Proof

/-- One 8-bit value: a general register, a timer, a memory byte (R4: `XLEN = 8`). -/
abbrev Byte := BitVec 8

/-- One 16-bit value: an instruction word, `I`, `PC`, a stack entry (R4, R5). -/
abbrev Word := BitVec 16

/-- The `NNN` field of an instruction word (R71). -/
abbrev Addr12 := BitVec 12

/-- A timestamp: `TIME_BITS = 64` bits of unsigned nanoseconds (R5, R30). -/
abbrev Time := BitVec 64

/-- A register selector or a logical key id: one of sixteen (R20, R206). -/
abbrev Reg := Fin 16

/-- `VF`, the register some instructions also write as a flag (R21). -/
abbrev Reg.vf : Reg := 15

end Sys2Proof
end

