-- ==== Sys2Proof/Syntax.lean ====
section
/-! DEFINITION. The instructions: one constructor per row of spec/opcode_table.json (R75), in the table's order, with
the fields the row gives it. -/

namespace Sys2Proof

/-- An instruction. `x`, `y` are register selectors, `nn`, `nnn` immediates, and `n` a count of sprite rows (R71,
R73). `shr` and `shl` keep the `Y` field their encoding ignores (R77). -/
inductive Instr where
  /-- 00E0 `CLS` (R181) -/
  | cls
  /-- 00EE `RET` (R110) -/
  | ret
  /-- 1NNN `JMP NNN` (R111) -/
  | jmp (nnn : Addr12)
  /-- 2NNN `CALL NNN` (R112) -/
  | call (nnn : Addr12)
  /-- 3XNN `SE Vx, NN` (R113) -/
  | seImm (x : Reg) (nn : Byte)
  /-- 4XNN `SNE Vx, NN` (R114) -/
  | sneImm (x : Reg) (nn : Byte)
  /-- 5XY0 `SE Vx, Vy` (R115) -/
  | seReg (x y : Reg)
  /-- 9XY0 `SNE Vx, Vy` (R116) -/
  | sneReg (x y : Reg)
  /-- 6XNN `LD Vx, NN` (R130) -/
  | ldImm (x : Reg) (nn : Byte)
  /-- 7XNN `ADD Vx, NN` (R131) -/
  | addImm (x : Reg) (nn : Byte)
  /-- 8XY0 `LD Vx, Vy` (R132) -/
  | ldReg (x y : Reg)
  /-- 8XY1 `OR Vx, Vy` (R133) -/
  | orReg (x y : Reg)
  /-- 8XY2 `AND Vx, Vy` (R134) -/
  | andReg (x y : Reg)
  /-- 8XY3 `XOR Vx, Vy` (R135) -/
  | xorReg (x y : Reg)
  /-- 8XY4 `ADD Vx, Vy` (R136) -/
  | addReg (x y : Reg)
  /-- 8XY5 `SUB Vx, Vy` (R137) -/
  | subReg (x y : Reg)
  /-- 8XY6 `SHR Vx` (R138) -/
  | shr (x y : Reg)
  /-- 8XY7 `SUBN Vx, Vy` (R139) -/
  | subnReg (x y : Reg)
  /-- 8XYE `SHL Vx` (R140) -/
  | shl (x y : Reg)
  /-- ANNN `LD I, NNN` (R160) -/
  | ldI (nnn : Addr12)
  /-- BNNN `JMP V0, NNN` (R117) -/
  | jmpV0 (nnn : Addr12)
  /-- CXNN `RND Vx, NN` (R141) -/
  | rnd (x : Reg) (nn : Byte)
  /-- DXYN `DRW Vx, Vy, N` (R182) -/
  | drw (x y : Reg) (n : Nat)
  /-- EX9E `SKP Vx` (R200) -/
  | skp (x : Reg)
  /-- EXA1 `SKNP Vx` (R201) -/
  | sknp (x : Reg)
  /-- FX07 `LD Vx, DT` (R203) -/
  | ldFromDt (x : Reg)
  /-- FX15 `LD DT, Vx` (R204) -/
  | ldDt (x : Reg)
  /-- FX18 `LD ST, Vx` (R205) -/
  | ldSt (x : Reg)
  /-- FX0A `LD Vx, K` (R202) -/
  | ldKey (x : Reg)
  /-- FX1E `ADD I, Vx` (R161) -/
  | addI (x : Reg)
  /-- FX29 `LD F, Vx` (R162) -/
  | ldF (x : Reg)
  /-- FX33 `BCD Vx` (R163) -/
  | bcd (x : Reg)
  /-- FX55 `LD [I], Vx` (R164) -/
  | storeRegs (x : Reg)
  /-- FX65 `LD Vx, [I]` (R165) -/
  | loadRegs (x : Reg)
  deriving DecidableEq, Repr

end Sys2Proof
end

