-- ==== Sys2Proof/WellFormed.lean ====
section
/-! DEFINITION. Which instructions an encoding exists for. Register selectors and the immediates `NN` and `NNN` have
exactly the width of their field (R71, R73), so the one check left is on the row count of `DRW`. -/

namespace Sys2Proof

/-- The instruction's fields fit their encoding: `N` of `DRW` is "a row count 0 to 15" (R73). -/
def Instr.wf : Instr → Bool
  | .drw _ _ n => decide (n < 16)
  | .cls | .ret | .jmp _ | .call _ | .seImm _ _ | .sneImm _ _ | .seReg _ _ | .sneReg _ _ | .ldImm _ _ | .addImm _ _
  | .ldReg _ _ | .orReg _ _ | .andReg _ _ | .xorReg _ _ | .addReg _ _ | .subReg _ _ | .shr _ _ | .subnReg _ _
  | .shl _ _ | .ldI _ | .jmpV0 _ | .rnd _ _ | .skp _ | .sknp _ | .ldFromDt _ | .ldDt _ | .ldSt _ | .ldKey _
  | .addI _ | .ldF _ | .bcd _ | .storeRegs _ | .loadRegs _ => true

end Sys2Proof
end

