-- ==== Sys2Proof/Decode.lean ====
section
/-! DEFINITION. From bits to an instruction and back: the field layout (R71), the decode procedure (R74, R75), the
rejection of every other word (R76), the encoder, and the opcode table itself as masks and matches. -/

namespace Sys2Proof

/-- `class = w[15:12]` (R71). -/
def opClass (w : Word) : BitVec 4 := w.extractLsb' 12 4
/-- `X = w[11:8]` (R71). -/
def fieldX (w : Word) : Reg := (w.extractLsb' 8 4).toFin
/-- `Y = w[7:4]` (R71). -/
def fieldY (w : Word) : Reg := (w.extractLsb' 4 4).toFin
/-- `N = w[3:0]` (R71). -/
def fieldN (w : Word) : BitVec 4 := w.extractLsb' 0 4
/-- `NN = w[7:0]` (R71). -/
def fieldNN (w : Word) : Byte := w.extractLsb' 0 8
/-- `NNN = w[11:0]` (R71). -/
def fieldNNN (w : Word) : Addr12 := w.extractLsb' 0 12

/-- Why bytes are no instruction. -/
inductive DecodeError where
  /-- The word matches no row of the opcode table (R76); the machine goes on, see R98. -/
  | unrecognised (w : Word)
  /-- Fewer than the two bytes of an instruction word were given (R70). -/
  | truncated
  deriving DecidableEq, Repr

/-- Class 0: the whole word is fixed (R74). -/
def decodeClass0 (w : Word) : Except DecodeError Instr :=
  if w = 0x00E0 then .ok .cls
  else if w = 0x00EE then .ok .ret
  else .error (.unrecognised w)

/-- Class 8: the sub-opcode is `N` (R74, R75 rows 11 to 19). -/
def decodeClass8 (w : Word) : Except DecodeError Instr :=
  match fieldN w with
  | 0x0#4 => .ok (.ldReg (fieldX w) (fieldY w))
  | 0x1#4 => .ok (.orReg (fieldX w) (fieldY w))
  | 0x2#4 => .ok (.andReg (fieldX w) (fieldY w))
  | 0x3#4 => .ok (.xorReg (fieldX w) (fieldY w))
  | 0x4#4 => .ok (.addReg (fieldX w) (fieldY w))
  | 0x5#4 => .ok (.subReg (fieldX w) (fieldY w))
  | 0x6#4 => .ok (.shr (fieldX w) (fieldY w))
  | 0x7#4 => .ok (.subnReg (fieldX w) (fieldY w))
  | 0xE#4 => .ok (.shl (fieldX w) (fieldY w))
  | _ => .error (.unrecognised w)

/-- Class E: the sub-opcode is `NN` (R74, R75 rows 24 and 25). -/
def decodeClassE (w : Word) : Except DecodeError Instr :=
  match fieldNN w with
  | 0x9E#8 => .ok (.skp (fieldX w))
  | 0xA1#8 => .ok (.sknp (fieldX w))
  | _ => .error (.unrecognised w)

/-- Class F: the sub-opcode is `NN` (R74, R75 rows 26 to 34). -/
def decodeClassF (w : Word) : Except DecodeError Instr :=
  match fieldNN w with
  | 0x07#8 => .ok (.ldFromDt (fieldX w))
  | 0x0A#8 => .ok (.ldKey (fieldX w))
  | 0x15#8 => .ok (.ldDt (fieldX w))
  | 0x18#8 => .ok (.ldSt (fieldX w))
  | 0x1E#8 => .ok (.addI (fieldX w))
  | 0x29#8 => .ok (.ldF (fieldX w))
  | 0x33#8 => .ok (.bcd (fieldX w))
  | 0x55#8 => .ok (.storeRegs (fieldX w))
  | 0x65#8 => .ok (.loadRegs (fieldX w))
  | _ => .error (.unrecognised w)

/-- The decoder: "a pure, total function of the word" (R71, R74). The last arm is class F. -/
def decodeWord (w : Word) : Except DecodeError Instr :=
  match opClass w with
  | 0x0#4 => decodeClass0 w
  | 0x1#4 => .ok (.jmp (fieldNNN w))
  | 0x2#4 => .ok (.call (fieldNNN w))
  | 0x3#4 => .ok (.seImm (fieldX w) (fieldNN w))
  | 0x4#4 => .ok (.sneImm (fieldX w) (fieldNN w))
  | 0x5#4 => if fieldN w = 0 then .ok (.seReg (fieldX w) (fieldY w)) else .error (.unrecognised w)
  | 0x6#4 => .ok (.ldImm (fieldX w) (fieldNN w))
  | 0x7#4 => .ok (.addImm (fieldX w) (fieldNN w))
  | 0x8#4 => decodeClass8 w
  | 0x9#4 => if fieldN w = 0 then .ok (.sneReg (fieldX w) (fieldY w)) else .error (.unrecognised w)
  | 0xA#4 => .ok (.ldI (fieldNNN w))
  | 0xB#4 => .ok (.jmpV0 (fieldNNN w))
  | 0xC#4 => .ok (.rnd (fieldX w) (fieldNN w))
  | 0xD#4 => .ok (.drw (fieldX w) (fieldY w) (fieldN w).toNat)
  | 0xE#4 => decodeClassE w
  | _ => decodeClassF w

/-- The word of two bytes, "the byte at the lower address giving `w[15:8]`" (R56). -/
def wordOfBytes (hi lo : Byte) : Word := hi ++ lo

/-- The byte of a word at its lower address, `w[15:8]` (R56). -/
def highByte (w : Word) : Byte := w.extractLsb' 8 8

/-- The byte of a word at its higher address, `w[7:0]` (R56). -/
def lowByte (w : Word) : Byte := w.extractLsb' 0 8

/-- Decode the instruction at the head of a byte stream and give the bytes after it (R56, R70). -/
def decode : List Byte → Except DecodeError (Instr × List Byte)
  | hi :: lo :: rest =>
    match decodeWord (wordOfBytes hi lo) with
    | .ok i => .ok (i, rest)
    | .error e => .error e
  | _ => .error .truncated

/-- The word whose nibbles are the given ones, most significant first (R71). -/
def wordOfNibbles (c a b d : BitVec 4) : Word := c ++ a ++ b ++ d

/-- Formats `FIXED` and `XY`: class, two selectors, sub-opcode (R72). -/
def encXY (c : BitVec 4) (x y : Reg) (d : BitVec 4) : Word :=
  wordOfNibbles c (BitVec.ofFin x) (BitVec.ofFin y) d

/-- Format `X`: class, one selector, an eight-bit sub-opcode (R72); also `XNN`, whose low byte is the immediate. -/
def encX (c : BitVec 4) (x : Reg) (nn : Byte) : Word :=
  c ++ (BitVec.ofFin x : BitVec 4) ++ nn

/-- Format `NNN`: class and a twelve-bit address (R72). -/
def encNNN (c : BitVec 4) (nnn : Addr12) : Word := c ++ nnn

/-- The word of an instruction, from the patterns of R75. -/
def encodeWord : Instr → Word
  | .cls => 0x00E0
  | .ret => 0x00EE
  | .jmp nnn => encNNN 0x1 nnn
  | .call nnn => encNNN 0x2 nnn
  | .seImm x nn => encX 0x3 x nn
  | .sneImm x nn => encX 0x4 x nn
  | .seReg x y => encXY 0x5 x y 0x0
  | .sneReg x y => encXY 0x9 x y 0x0
  | .ldImm x nn => encX 0x6 x nn
  | .addImm x nn => encX 0x7 x nn
  | .ldReg x y => encXY 0x8 x y 0x0
  | .orReg x y => encXY 0x8 x y 0x1
  | .andReg x y => encXY 0x8 x y 0x2
  | .xorReg x y => encXY 0x8 x y 0x3
  | .addReg x y => encXY 0x8 x y 0x4
  | .subReg x y => encXY 0x8 x y 0x5
  | .shr x y => encXY 0x8 x y 0x6
  | .subnReg x y => encXY 0x8 x y 0x7
  | .shl x y => encXY 0x8 x y 0xE
  | .ldI nnn => encNNN 0xA nnn
  | .jmpV0 nnn => encNNN 0xB nnn
  | .rnd x nn => encX 0xC x nn
  | .drw x y n => encXY 0xD x y (BitVec.ofNat 4 n)
  | .skp x => encX 0xE x 0x9E
  | .sknp x => encX 0xE x 0xA1
  | .ldFromDt x => encX 0xF x 0x07
  | .ldDt x => encX 0xF x 0x15
  | .ldSt x => encX 0xF x 0x18
  | .ldKey x => encX 0xF x 0x0A
  | .addI x => encX 0xF x 0x1E
  | .ldF x => encX 0xF x 0x29
  | .bcd x => encX 0xF x 0x33
  | .storeRegs x => encX 0xF x 0x55
  | .loadRegs x => encX 0xF x 0x65

/-- The two bytes of an instruction as they lie in memory, the lower address first (R56). -/
def encode (i : Instr) : List Byte := [highByte (encodeWord i), lowByte (encodeWord i)]

/-- One row of R75: `(w & mask) == pattern`. -/
structure OpcodeRow where
  /-- The row's mnemonic in spec/opcode_table.json. -/
  mnemonic : String
  /-- The bits the row fixes. -/
  mask : Word
  /-- The value of those bits. -/
  pattern : Word
  deriving DecidableEq, Repr

/-- The row of R75 an instruction stands in. -/
def Instr.row : Instr → OpcodeRow
  | .cls => ⟨"CLS", 0xFFFF, 0x00E0⟩
  | .ret => ⟨"RET", 0xFFFF, 0x00EE⟩
  | .jmp _ => ⟨"JMP_NNN", 0xF000, 0x1000⟩
  | .call _ => ⟨"CALL_NNN", 0xF000, 0x2000⟩
  | .seImm _ _ => ⟨"SE_Vx__NN", 0xF000, 0x3000⟩
  | .sneImm _ _ => ⟨"SNE_Vx__NN", 0xF000, 0x4000⟩
  | .seReg _ _ => ⟨"SE_Vx__Vy", 0xF00F, 0x5000⟩
  | .sneReg _ _ => ⟨"SNE_Vx__Vy", 0xF00F, 0x9000⟩
  | .ldImm _ _ => ⟨"LD_Vx__NN", 0xF000, 0x6000⟩
  | .addImm _ _ => ⟨"ADD_Vx__NN", 0xF000, 0x7000⟩
  | .ldReg _ _ => ⟨"LD_Vx__Vy", 0xF00F, 0x8000⟩
  | .orReg _ _ => ⟨"OR_Vx__Vy", 0xF00F, 0x8001⟩
  | .andReg _ _ => ⟨"AND_Vx__Vy", 0xF00F, 0x8002⟩
  | .xorReg _ _ => ⟨"XOR_Vx__Vy", 0xF00F, 0x8003⟩
  | .addReg _ _ => ⟨"ADD_Vx__Vy", 0xF00F, 0x8004⟩
  | .subReg _ _ => ⟨"SUB_Vx__Vy", 0xF00F, 0x8005⟩
  | .shr _ _ => ⟨"SHR_Vx", 0xF00F, 0x8006⟩
  | .subnReg _ _ => ⟨"SUBN_Vx__Vy", 0xF00F, 0x8007⟩
  | .shl _ _ => ⟨"SHL_Vx", 0xF00F, 0x800E⟩
  | .ldI _ => ⟨"LD_I__NNN", 0xF000, 0xA000⟩
  | .jmpV0 _ => ⟨"JMP_V0__NNN", 0xF000, 0xB000⟩
  | .rnd _ _ => ⟨"RND_Vx__NN", 0xF000, 0xC000⟩
  | .drw _ _ _ => ⟨"DRW_Vx__Vy__N", 0xF000, 0xD000⟩
  | .skp _ => ⟨"SKP_Vx", 0xF0FF, 0xE09E⟩
  | .sknp _ => ⟨"SKNP_Vx", 0xF0FF, 0xE0A1⟩
  | .ldFromDt _ => ⟨"LD_Vx__DT", 0xF0FF, 0xF007⟩
  | .ldDt _ => ⟨"LD_DT__Vx", 0xF0FF, 0xF015⟩
  | .ldSt _ => ⟨"LD_ST__Vx", 0xF0FF, 0xF018⟩
  | .ldKey _ => ⟨"LD_Vx__K", 0xF0FF, 0xF00A⟩
  | .addI _ => ⟨"ADD_I__Vx", 0xF0FF, 0xF01E⟩
  | .ldF _ => ⟨"LD_F__Vx", 0xF0FF, 0xF029⟩
  | .bcd _ => ⟨"BCD_Vx", 0xF0FF, 0xF033⟩
  | .storeRegs _ => ⟨"LD__I___Vx", 0xF0FF, 0xF055⟩
  | .loadRegs _ => ⟨"LD_Vx___I", 0xF0FF, 0xF065⟩

/-- The table of R75, in its order, each row taken from one instruction of it. -/
def opcodeTable : List OpcodeRow :=
  [Instr.cls, .ret, .jmp 0, .call 0, .seImm 0 0, .sneImm 0 0, .seReg 0 0, .sneReg 0 0, .ldImm 0 0, .addImm 0 0,
   .ldReg 0 0, .orReg 0 0, .andReg 0 0, .xorReg 0 0, .addReg 0 0, .subReg 0 0, .shr 0 0, .subnReg 0 0, .shl 0 0,
   .ldI 0, .jmpV0 0, .rnd 0 0, .drw 0 0 0, .skp 0, .sknp 0, .ldFromDt 0, .ldDt 0, .ldSt 0, .ldKey 0, .addI 0, .ldF 0,
   .bcd 0, .storeRegs 0, .loadRegs 0].map Instr.row

/-- A word matches a row when its masked bits are the row's pattern (R74). -/
def OpcodeRow.selects (r : OpcodeRow) (w : Word) : Bool := w &&& r.mask == r.pattern

/-- The bytes of a table word as the hardware stores them: one 16-bit word, high byte first (R56, R70). Bits of `w`
at `nbits` and above are taken as 0. -/
def tableBytes (nbits w : Nat) : List Byte :=
  let word : Word := BitVec.ofNat 16 (w % 2 ^ nbits)
  [highByte word, lowByte word]

/-- What the decoder reads from a word of spec/opcode_table.json. -/
def decodeTableWord (nbits w : Nat) : Option Instr :=
  match decode (tableBytes nbits w) with
  | .ok (i, _) => some i
  | .error _ => none

/-! ## Assembler spelling -/

/-- The last `n` hexadecimal digits of a number, as `R79` writes registers and immediates. -/
def hexDigits : Nat → Nat → List Char
  | 0, _ => []
  | n + 1, a => hexDigits n (a / 16) ++ ["0123456789ABCDEF".toList.getD (a % 16) '0']

/-- `V0` to `VF` (R79). -/
def asmReg (x : Reg) : String := String.ofList ('V' :: hexDigits 1 x.val)

/-- An immediate, "in hexadecimal with `0x`" (R79). -/
def asmImm (digits a : Nat) : String := "0x" ++ String.ofList (hexDigits digits a)

/-- The spelling of an instruction in the assembler column of R75 (R79, decision D30). `SHR` and `SHL` take one operand:
a `Y` other than 0 has no spelling of its own. -/
def Instr.asm : Instr → String
  | .cls => "CLS"
  | .ret => "RET"
  | .jmp nnn => "JMP " ++ asmImm 3 nnn.toNat
  | .call nnn => "CALL " ++ asmImm 3 nnn.toNat
  | .seImm x nn => "SE " ++ asmReg x ++ ", " ++ asmImm 2 nn.toNat
  | .sneImm x nn => "SNE " ++ asmReg x ++ ", " ++ asmImm 2 nn.toNat
  | .seReg x y => "SE " ++ asmReg x ++ ", " ++ asmReg y
  | .sneReg x y => "SNE " ++ asmReg x ++ ", " ++ asmReg y
  | .ldImm x nn => "LD " ++ asmReg x ++ ", " ++ asmImm 2 nn.toNat
  | .addImm x nn => "ADD " ++ asmReg x ++ ", " ++ asmImm 2 nn.toNat
  | .ldReg x y => "LD " ++ asmReg x ++ ", " ++ asmReg y
  | .orReg x y => "OR " ++ asmReg x ++ ", " ++ asmReg y
  | .andReg x y => "AND " ++ asmReg x ++ ", " ++ asmReg y
  | .xorReg x y => "XOR " ++ asmReg x ++ ", " ++ asmReg y
  | .addReg x y => "ADD " ++ asmReg x ++ ", " ++ asmReg y
  | .subReg x y => "SUB " ++ asmReg x ++ ", " ++ asmReg y
  | .shr x _ => "SHR " ++ asmReg x
  | .subnReg x y => "SUBN " ++ asmReg x ++ ", " ++ asmReg y
  | .shl x _ => "SHL " ++ asmReg x
  | .ldI nnn => "LD I, " ++ asmImm 3 nnn.toNat
  | .jmpV0 nnn => "JMP V0, " ++ asmImm 3 nnn.toNat
  | .rnd x nn => "RND " ++ asmReg x ++ ", " ++ asmImm 2 nn.toNat
  | .drw x y n => "DRW " ++ asmReg x ++ ", " ++ asmReg y ++ ", " ++ asmImm 1 n
  | .skp x => "SKP " ++ asmReg x
  | .sknp x => "SKNP " ++ asmReg x
  | .ldFromDt x => "LD " ++ asmReg x ++ ", DT"
  | .ldDt x => "LD DT, " ++ asmReg x
  | .ldSt x => "LD ST, " ++ asmReg x
  | .ldKey x => "LD " ++ asmReg x ++ ", K"
  | .addI x => "ADD I, " ++ asmReg x
  | .ldF x => "LD F, " ++ asmReg x
  | .bcd x => "BCD " ++ asmReg x
  | .storeRegs x => "LD [I], " ++ asmReg x
  | .loadRegs x => "LD " ++ asmReg x ++ ", [I]"

end Sys2Proof
end

