-- ==== Sys2Proof/Config.lean ====
section
/-! DEFINITION. What is fixed for the machine: the constants the source fixes (R4), the construction parameters
with their defaults (R5, R6, R7), and the free values the host's side of the ports supplies (R13). -/

namespace Sys2Proof.Config

/-- `MEM_SIZE` (R4). -/
abbrev memSize : Nat := 4096
/-- `PROG_BASE` (R4): where the program image is loaded. -/
abbrev progBase : Nat := 0x200
/-- The most bytes a program image may have (R263). -/
abbrev maxImage : Nat := memSize - progBase
/-- `FB_W` (R4). -/
abbrev fbWidth : Nat := 64
/-- `FB_H` (R4). -/
abbrev fbHeight : Nat := 32
/-- Pixels in one sprite row: the bits of a byte (R180). -/
abbrev spriteWidth : Nat := 8

/-- The default `GLYPH_TABLE` (R7, `FONT_BASE = 0`). PRESUMED: the spec marks all 80 bytes as general knowledge
(log entry 2). -/
def defaultGlyphs : Vector Byte 80 := #v[
  0xF0, 0x90, 0x90, 0x90, 0xF0,  0x20, 0x60, 0x20, 0x20, 0x70,
  0xF0, 0x10, 0xF0, 0x80, 0xF0,  0xF0, 0x10, 0xF0, 0x10, 0xF0,
  0x90, 0x90, 0xF0, 0x10, 0x10,  0xF0, 0x80, 0xF0, 0x10, 0xF0,
  0xF0, 0x80, 0xF0, 0x90, 0xF0,  0xF0, 0x10, 0x20, 0x40, 0x40,
  0xF0, 0x90, 0xF0, 0x90, 0xF0,  0xF0, 0x90, 0xF0, 0x10, 0xF0,
  0xF0, 0x90, 0xF0, 0x90, 0x90,  0xE0, 0x90, 0xE0, 0x90, 0xE0,
  0xF0, 0x80, 0x80, 0x80, 0xF0,  0xE0, 0x90, 0x90, 0x90, 0xE0,
  0xF0, 0x80, 0xF0, 0x80, 0xF0,  0xF0, 0x80, 0xF0, 0x80, 0x80]

/-- The parameters a machine is constructed with: fixed for the life of the machine and written by no step (R5, R6, R7,
R33; log entry 1). The defaults are the spec's where it gives one. It gives none for `T_RESET` and `DEBUG`: theirs are
the model's (DESIGN CHOICE, log entry 32). -/
structure Params where
  /-- `STACK_DEPTH` (R5, decision D5). -/
  stackDepth : Nat := 16
  /-- `TIMER_INTERVAL_NS` (R5, decision D18). -/
  timerIntervalNs : Nat := 16666667
  /-- `INSTR_INTERVAL_NS` (R6). -/
  instrIntervalNs : Nat := 1000000
  /-- `T_RESET`, the timestamp presented at construction (R260), which decision D21 leaves open. DESIGN CHOICE: 0, the
  special case D21 mentions (log entry 32). -/
  tReset : Time := 0
  /-- `DEBUG`: no architectural effect (R251, decision D29). DESIGN CHOICE: off, where the spec gives no default (log
  entry 32). -/
  debug : Bool := false
  /-- `GLYPH_TABLE` (R7). -/
  glyphs : Vector Byte 80 := defaultGlyphs
  deriving DecidableEq, Repr

/-- What `NextKeyPress()` has answered when the core looks (R13, R202): a key press, the terminate signal, or
nothing yet, in which case the core stays blocked (log entry 6). -/
inductive KeyAnswer where
  | key (k : Reg)
  | terminate
  | notYet
  deriving DecidableEq, Repr, Inhabited

/-! Free values: inputs of the block nothing constrains. Each stands for what the environment supplies once the
inputs written out in `State.ports` are used up; the argument is a plain counter in `State` (log entries 4, 5, 6). -/

/-- The byte `RandByte()` returns, "a free draw under no law" (R13, decision D28). -/
opaque freeRandByte : Nat → Byte
/-- The `now` argument of a cycle call the model has not been given (R245). -/
opaque freeNow : Nat → Time
/-- The `keys` argument of a cycle call the model has not been given (R245). -/
opaque freeKeys : Nat → Word
/-- The answer of `NextKeyPress()` when the model has not been given one (R13). -/
opaque freeKeyAnswer : Nat → KeyAnswer

end Sys2Proof.Config
end

