-- ==== Sys2Proof/Machine/State.lean ====
section
/-! DEFINITION. The machine state as plain data (spec/10_state.md), the block's ports (R245), why a step can stop, and
the state right after reset (R34, R260). -/

namespace Sys2Proof.Machine

open Sys2Proof.Config (Params KeyAnswer)

/-- Why the core halted (R227). -/
inductive HaltCause where
  /-- Code 0: running. -/
  | none
  /-- Code 1: a step began with `PC > 4094` (R221). -/
  | pcOutOfBounds
  /-- Code 2: the terminate signal arrived during `LD Vx, K` (R226). -/
  | terminated
  /-- Code 3: `CALL` on a full stack (R223). -/
  | stackOverflow
  /-- Code 4: `RET` on an empty stack (R224). -/
  | stackUnderflow
  /-- Code 5: a data access above 4095 (R225). -/
  | memoryOutOfBounds
  deriving DecidableEq, Repr

/-- `HALT_CAUSE` as the 3-bit code of R227 (R35). -/
def HaltCause.code : HaltCause → BitVec 3
  | .none => 0
  | .pcOutOfBounds => 1
  | .terminated => 2
  | .stackOverflow => 3
  | .stackUnderflow => 4
  | .memoryOutOfBounds => 5

/-- What a cycle call returns (R100): `Running`, or `Fatal` with the cause and, in the cycle that raised it, the
recorded value of R227. -/
inductive CycleResult where
  | running
  | fatal (cause : HaltCause) (info : Option Nat)
  deriving DecidableEq, Repr

/-- The diagnostic of R98: the word and the address it was fetched from. -/
structure DecodeMiss where
  word : Word
  addr : Word
  deriving DecidableEq, Repr

/-- One call of `Cycle(now, keys)` by the host (R90); `keys[k] = 1` when key `k` is pressed (R13). -/
structure HostCall where
  now : Time
  keys : Word
  deriving DecidableEq, Repr

/-- The ports of the block (R245): what the host is about to supply, oldest first, and what the last cycle put out.
The lists are the environment written out as data; past their end the free values of `Config` answer, each draw at a
fresh counter (log entries 4, 5, 6). None of this is architectural state of the core (R33). -/
structure Ports where
  /-- Cycle calls the host is going to make. -/
  calls : List HostCall
  /-- How many calls were drawn free after `calls` ran out. -/
  freeCalls : Nat
  /-- Answers `NextKeyPress()` is going to give. -/
  keyAnswers : List KeyAnswer
  /-- How many answers were drawn free after `keyAnswers` ran out. -/
  freeAnswers : Nat
  /-- Bytes `RandByte()` is going to return. -/
  randBytes : List Byte
  /-- How many bytes were drawn free after `randBytes` ran out. -/
  freeBytes : Nat
  /-- The `keys` argument of the cycle call in progress, read by `SKP` and `SKNP` (log entry 7). -/
  keys : Word
  /-- What the last cycle call returned; `none` before the first call and while a call has not returned. -/
  status : Option CycleResult
  /-- The decode-miss diagnostic of the last cycle, if it emitted one. -/
  diagnostic : Option DecodeMiss
  deriving DecidableEq, Repr

/-- `MEM` (R32): address and byte pairs, addresses strictly rising, holding exactly the bytes that differ from the
contents at reset before an image is loaded (log entry 8). -/
abbrev Memory := List Host.Cell

/-- `FB` (R28): 32 rows from the top, each of 64 cells from the left. -/
abbrev Framebuffer := Vector (Vector Bool 64) 32

/-- Every piece of state spec/10_state.md gives the machine, then the construction parameters and the ports. -/
structure State where
  /-- `V[0]` to `V[15]` (R20); `V[15]` is `VF` (R21). -/
  v : Vector Byte 16
  /-- `I`, the index register (R22). -/
  i : Word
  /-- `PC` (R23). -/
  pc : Word
  /-- `SP`, the number of live stack entries (R25). -/
  sp : Nat
  /-- `STACK[0 .. STACK_DEPTH-1]` (R25). -/
  stack : List Word
  /-- `DT`, the delay timer (R26). -/
  dt : Byte
  /-- `ST`, the sound timer (R27). -/
  st : Byte
  /-- `FB` (R28). -/
  fb : Framebuffer
  /-- `DISPLAY_DIRTY` (R29). -/
  displayDirty : Bool
  /-- `DISPLAY_CLEARED` (R29). -/
  displayCleared : Bool
  /-- `TONE_ON` (R29). -/
  toneOn : Bool
  /-- `LAST_TIMER_TICK` (R30). -/
  lastTimerTick : Time
  /-- `LAST_INSTR_TIME` (R30). -/
  lastInstrTime : Time
  /-- `HALTED` (R31). -/
  halted : Bool
  /-- `HALT_CAUSE` (R31). -/
  haltCause : HaltCause
  /-- The register a blocked `LD Vx, K` is going to write: the third condition of R252 (log entry 6). -/
  waiting : Option Reg
  /-- `MEM` (R32). -/
  mem : Memory
  /-- The construction parameters, which no step changes (R6; log entry 1). -/
  params : Params
  /-- The block's ports (R245). -/
  ports : Ports
  deriving DecidableEq, Repr

/-- Faults of the model: none. Every fatal condition of the spec is a state of the machine, entered by `State.raise`
and reported to the host (R230), so no step ends in a fault (log entry 9; safe). -/
inductive Fault where
  deriving DecidableEq, Repr

/-- Refusals of the model. -/
inductive Refusal where
  /-- An instruction whose arm in `exec` has no meaning yet, raised by that arm alone; safe. No arm raises it: every
  instruction of the table has its meaning. -/
  | notModelled (mnemonic : String)
  deriving DecidableEq, Repr

/-- Ports at which nothing has been exchanged yet. -/
def Ports.initial : Ports where
  calls := []
  freeCalls := 0
  keyAnswers := []
  freeAnswers := 0
  randBytes := []
  freeBytes := 0
  keys := 0
  status := none
  diagnostic := none

/-- The state right after construction with the given parameters and an empty program image (R34, R260, R261). -/
def State.initial (p : Params) : State where
  v := Vector.replicate 16 0
  i := 0
  pc := BitVec.ofNat 16 Config.progBase
  sp := 0
  stack := List.replicate p.stackDepth 0
  dt := 0
  st := 0
  fb := Vector.replicate 32 (Vector.replicate 64 false)
  displayDirty := false
  displayCleared := false
  toneOn := false
  lastTimerTick := p.tReset
  lastInstrTime := p.tReset
  halted := false
  haltCause := .none
  waiting := none
  mem := []
  params := p
  ports := Ports.initial

/-- The machine right after reset: the default parameters, of which `T_RESET` = 0 and `DEBUG` off are
DESIGN CHOICE (log entry 32), and no program image loaded yet (R34; log entries 3, 10). -/
def State.reset : State := State.initial {}

end Sys2Proof.Machine
end

