-- ==== Sys2Proof/Machine/Ops.lean ====
section
/-! DEFINITION. The named operations over the state: registers, memory, call stack, framebuffer, timers, ports, taking a
fatal condition (there is no return from one, R231), fetching, and construction with a program image. -/

namespace Sys2Proof.Machine

open Sys2Proof.Config (Params KeyAnswer)

/-! ## Registers -/

/-- `V[x]` (R12, R20). -/
def State.readReg (s : State) (x : Reg) : Byte := s.v.get x

/-- `V[x] <- b` (R12, R20): no register is hard-wired. -/
def State.writeReg (s : State) (x : Reg) (b : Byte) : State := { s with v := s.v.set x.val b x.isLt }

/-- `I <- a` (R22). -/
def State.setI (s : State) (a : Word) : State := { s with i := a }

/-- `PC <- a` (R12: `pc <- target`). -/
def State.setPc (s : State) (a : Word) : State := { s with pc := a }

/-- A taken skip: `PC <- PC + 2`, on top of the fetch's advance (R118), when the condition holds. -/
def State.skipIf (s : State) (taken : Bool) : State := if taken then s.setPc (s.pc + 2) else s

/-! ## Memory -/

/-- What an address nothing has been written to holds: the glyph table at `FONT_BASE = 0`, zero above it (R51, R261).
The one definition of it; addresses above 4095 are never read (R52). -/
def Memory.unlisted (glyphs : Vector Byte 80) (a : Nat) : Byte :=
  if h : a < 80 then glyphs[a] else 0

/-- The byte listed at an address, if one is. -/
def Memory.find (a : Nat) : Memory → Option Byte
  | [] => none
  | (k, b) :: rest => if a = k then some b else Memory.find a rest

/-- The byte at an address (R53). -/
def Memory.read (glyphs : Vector Byte 80) (m : Memory) (a : Nat) : Byte :=
  (Memory.find a m).getD (Memory.unlisted glyphs a)

/-- List `b` at address `a`, or list nothing there when `b` is the byte `bg` an unlisted `a` holds. -/
def Memory.insert (bg : Byte) (a : Nat) (b : Byte) : Memory → Memory
  | [] => if b = bg then [] else [(a, b)]
  | (k, c) :: rest =>
    if a < k then (if b = bg then (k, c) :: rest else (a, b) :: (k, c) :: rest)
    else if a = k then (if b = bg then rest else (a, b) :: rest)
    else (k, c) :: Memory.insert bg a b rest

/-- Store one byte (R54); an address above 4095 does not exist and nothing is stored there. -/
def Memory.write (glyphs : Vector Byte 80) (m : Memory) (a : Nat) (b : Byte) : Memory :=
  if a < Config.memSize then Memory.insert (Memory.unlisted glyphs a) a b m else m

/-- Addresses strictly rise. -/
def Memory.rising : Memory → Bool
  | [] => true
  | [_] => true
  | (a, _) :: (k, c) :: rest => decide (a < k) && Memory.rising ((k, c) :: rest)

/-- The canonical form: addresses rise strictly, exist, and none is listed with the byte it would hold unlisted. -/
def Memory.wf (glyphs : Vector Byte 80) (m : Memory) : Bool :=
  Memory.rising m && m.all fun c => decide (c.1 < Config.memSize) && decide (c.2 ≠ Memory.unlisted glyphs c.1)

/-- `MEM[a]` (R53). -/
def State.readByte (s : State) (a : Nat) : Byte := Memory.read s.params.glyphs s.mem a

/-- `MEM[a] <- b` (R54). -/
def State.writeByte (s : State) (a : Nat) (b : Byte) : State :=
  { s with mem := Memory.write s.params.glyphs s.mem a b }

/-- Store bytes at ascending addresses from `a` on (R56, R57). -/
def State.writeBytes (s : State) (a : Nat) : List Byte → State
  | [] => s
  | b :: bs => (s.writeByte a b).writeBytes (a + 1) bs

/-! ## Fatal conditions -/

/-- `raise E(info)` (R230): `HALTED` and `HALT_CAUSE` are written and the cycle's result carries the recorded value;
nothing is saved and control goes nowhere. The caller makes no further write. -/
def State.raise (s : State) (cause : HaltCause) (info : Option Nat) : State :=
  { s with
    halted := true
    haltCause := cause
    ports := { s.ports with status := some (.fatal cause info) } }

/-- An access of `count` bytes at `I` on, all of whose addresses exist: effective addresses do not wrap (R52, R55). -/
def State.accessFits (s : State) (count : Nat) : Bool := count == 0 || decide (s.i.toNat + (count - 1) < Config.memSize)

/-- `raise MemoryOutOfBounds(max(I, 4096))`: the lowest invalid address (R225). -/
def State.raiseMemory (s : State) : State :=
  s.raise .memoryOutOfBounds (some (max s.i.toNat Config.memSize))

/-! ## The call stack -/

/-- `STACK[SP] <- PC; SP <- SP + 1` (R112). -/
def State.pushPc (s : State) : State := { s with stack := s.stack.set s.sp s.pc, sp := s.sp + 1 }

/-- `SP <- SP - 1; pc <- STACK[SP]`: the entry stays where it was (R25, R110). -/
def State.popPc (s : State) : State := { s with sp := s.sp - 1, pc := s.stack.getD (s.sp - 1) 0 }

/-! ## The framebuffer -/

/-- `FB[y][x]` (R28). -/
def Framebuffer.cell (fb : Framebuffer) (y x : Nat) : Bool :=
  if h : y < 32 ∧ x < 64 then (fb[y]'h.1)[x]'h.2 else false

/-- `FB[y][x] <- b`; a cell off the screen does not exist. -/
def Framebuffer.setCell (fb : Framebuffer) (y x : Nat) (b : Bool) : Framebuffer :=
  if h : y < 32 ∧ x < 64 then fb.set y ((fb[y]'h.1).set x b h.2) h.1 else fb

/-- All 2048 cells off (R181). -/
def Framebuffer.blank : Framebuffer := Vector.replicate 32 (Vector.replicate 64 false)

/-- A framebuffer being drawn on, and whether an on pixel has been turned off yet (R182). -/
abbrev Drawing := Framebuffer × Bool

/-- XOR one sprite pixel into a cell; an on pixel turned off is a collision (R182). -/
def Drawing.plot (d : Drawing) (y x : Nat) (pixel : Bool) : Drawing :=
  if pixel then (d.1.setCell y x (d.1.cell y x ^^ true), d.2 || d.1.cell y x) else d

/-- Draw the first `cols` pixels of a sprite byte, bit 7 leftmost, from column `x0` on (R180, R182). -/
def Drawing.row (d : Drawing) (y x0 cols : Nat) (b : Byte) : Drawing :=
  (List.range cols).foldl (fun d c => d.plot y (x0 + c) (b.getLsbD (7 - c))) d

/-- Draw the rows that are on screen, top row first, each fetched from memory (R182). -/
def State.drawSprite (s : State) (y0 x0 rows cols : Nat) : Drawing :=
  (List.range rows).foldl (fun d r => d.row (y0 + r) x0 cols (s.readByte (s.i.toNat + r))) (s.fb, false)

/-- The framebuffer replaced. -/
def State.setFb (s : State) (fb : Framebuffer) : State := { s with fb := fb }

/-! ## Timers -/

/-- A timer one count lower, "saturating at zero" (R240). -/
def decayed (t : Byte) : Byte := if 0 < t.toNat then t - 1 else t

/-- `TimerDecay()` (R240): both timers, then the tone flag from `ST` after the decrement (R241). -/
def State.timerDecay (s : State) : State :=
  { s with dt := decayed s.dt, st := decayed s.st, toneOn := decide (0 < (decayed s.st).toNat) }

/-- `Elapsed(a, b)`, saturating at zero (R102). -/
def elapsed (a b : Time) : Nat := a.toNat - b.toNat

/-! ## Ports -/

/-- `RandByte()` (R13): the next byte the environment supplies, a free draw when none is written out. -/
def State.randByte (s : State) : Byte :=
  match s.ports.randBytes with
  | b :: _ => b
  | [] => Config.freeRandByte s.ports.freeBytes

/-- The ports after one `RandByte()`: each execution takes a new draw (R141). -/
def State.takeRandByte (s : State) : State :=
  match s.ports.randBytes with
  | _ :: bs => { s with ports := { s.ports with randBytes := bs } }
  | [] => { s with ports := { s.ports with freeBytes := s.ports.freeBytes + 1 } }

/-- What `NextKeyPress()` answers when the core looks (R13, R202). -/
def State.keyAnswer (s : State) : KeyAnswer :=
  match s.ports.keyAnswers with
  | a :: _ => a
  | [] => Config.freeKeyAnswer s.ports.freeAnswers

/-- The ports after one look at `NextKeyPress()`. -/
def State.takeKeyAnswer (s : State) : State :=
  match s.ports.keyAnswers with
  | _ :: rest => { s with ports := { s.ports with keyAnswers := rest } }
  | [] => { s with ports := { s.ports with freeAnswers := s.ports.freeAnswers + 1 } }

/-- The next cycle call of the host (R90, R245). -/
def State.hostCall (s : State) : HostCall :=
  match s.ports.calls with
  | c :: _ => c
  | [] => ⟨Config.freeNow s.ports.freeCalls, Config.freeKeys s.ports.freeCalls⟩

/-- The ports after the host has made its next cycle call. -/
def State.takeHostCall (s : State) : State :=
  match s.ports.calls with
  | _ :: rest => { s with ports := { s.ports with calls := rest } }
  | [] => { s with ports := { s.ports with freeCalls := s.ports.freeCalls + 1 } }

/-- The wait of `LD Vx, K` (R202): a key press is stored and the wait ends; the terminate signal halts the core and
leaves `V[x]` alone (R226); with no answer yet the core is blocked and nothing in it changes (R252). -/
def State.keyWait (s : State) (x : Reg) : State :=
  match s.keyAnswer with
  | .key k => { s.takeKeyAnswer.writeReg x (BitVec.ofNat 8 k.val) with waiting := none }
  | .terminate => { s.takeKeyAnswer.raise .terminated none with waiting := none }
  | .notYet => { s.takeKeyAnswer with waiting := some x }

/-- `Emit DecodeMiss(w, a)` (R98): a value out of a port; no state changes. -/
def State.emitDecodeMiss (s : State) (w a : Word) : State :=
  { s with ports := { s.ports with diagnostic := some ⟨w, a⟩ } }

/-! ## Fetch -/

/-- Both bytes of the word at `PC` exist; otherwise the fetch is fatal (R95). -/
def State.pcInBounds (s : State) : Bool := decide (s.pc.toNat + 1 < Config.memSize)

/-- The word at `PC`, big-endian, from two byte reads; `PC` may be odd (R56, R57, R58). -/
def State.fetchWord (s : State) : Word :=
  wordOfBytes (s.readByte s.pc.toNat) (s.readByte (s.pc.toNat + 1))

/-- What the fetch changes before the instruction runs: `PC <- PC + 2` and `LAST_INSTR_TIME <- now` (R96). -/
def State.advance (s : State) (now : Time) : State := { s with pc := s.pc + 2, lastInstrTime := now }

/-! ## Construction -/

/-- `Reset(glyphs, image, t_reset, instr_interval_ns, debug)` (R260): the image is loaded verbatim at 0x200 (R261), and
one that does not fit is refused (R263). -/
def State.construct (p : Params) (image : List Byte) : Option State :=
  if image.length ≤ Config.maxImage then some ((State.initial p).writeBytes Config.progBase image) else none

end Sys2Proof.Machine
end

