-- ==== Sys2Proof/Machine/Operands.lean ====
section
/-! DEFINITION. The operand forms: immediates widened to their destination (R73), the one memory form "at `I`" (R166),
the values computed from a register operand (glyph address, decimal digits, key id, screen position). -/

namespace Sys2Proof.Machine

/-- `zext_16(NNN)` (R73). -/
def zextAddr (nnn : Addr12) : Word := nnn.setWidth 16

/-- `zext_16(v)` of a register value (R73). -/
def zextByte (b : Byte) : Word := b.setWidth 16

/-- The effective address `I + k`, which never wraps (R52, R166). -/
def State.effAddr (s : State) (k : Nat) : Nat := s.i.toNat + k

/-- The target of `JMP V0, NNN`: always register 0, no truncation to 12 bits (R117). -/
def State.indexedTarget (s : State) (nnn : Addr12) : Word := zextAddr nnn + zextByte (s.readReg 0)

/-- `zext_16(V[x]) * 5`: the whole byte, `FONT_BASE = 0` (R162). -/
def glyphAddr (b : Byte) : Word := zextByte b * 5

/-- The hundreds, tens and ones digits of a byte, in the order they are stored (R163). -/
def bcdDigits (b : Byte) : List Byte :=
  [BitVec.ofNat 8 (b.toNat / 100), BitVec.ofNat 8 (b.toNat / 10 % 10), BitVec.ofNat 8 (b.toNat % 10)]

/-- `V[x] <= 15 and keys[V[x]] == 1`, on the snapshot of the cycle in progress; no masking to 4 bits (R200, R206). -/
def State.keyPressed (s : State) (b : Byte) : Bool := decide (b.toNat ≤ 15) && s.ports.keys.getLsbD b.toNat

/-- A coordinate operand of `DRW`: "VF is cleared first, so a VF operand reads 0" (R182). -/
def State.coordinate (s : State) (x : Reg) : Nat := if x = Reg.vf then 0 else (s.readReg x).toNat

/-- The start column `x0`, which wraps on entry (R182). -/
def State.startCol (s : State) (x : Reg) : Nat := s.coordinate x % Config.fbWidth

/-- The start row `y0`, which wraps on entry (R182). -/
def State.startRow (s : State) (y : Reg) : Nat := s.coordinate y % Config.fbHeight

/-- The rows of the sprite that are on screen: `min(N, 32 - y0)` (R182). -/
def State.visibleRows (s : State) (y : Reg) (n : Nat) : Nat := min n (Config.fbHeight - s.startRow y)

/-- The columns of the sprite that are on screen: `min(8, 64 - x0)` (R182). -/
def State.visibleCols (s : State) (x : Reg) : Nat := min Config.spriteWidth (Config.fbWidth - s.startCol x)

/-- `0 .. x`, the registers a block transfer moves, ascending (R164, R165). -/
def regsUpTo (x : Reg) : List Reg := (List.range (x.val + 1)).map (Fin.ofNat 16)

/-- `V[0] .. V[x]`, the bytes a block store moves (R164). -/
def State.regBlock (s : State) (x : Reg) : List Byte := (regsUpTo x).map s.readReg

/-- `V[k] <- MemRead(I + k, 1)` for `k` in `0 .. x`, ascending (R165). -/
def State.loadBlock (s : State) (x : Reg) : State :=
  (regsUpTo x).foldl (fun t k => t.writeReg k (t.readByte (t.effAddr k.val))) s

end Sys2Proof.Machine
end

