-- ==== Sys2Proof/Machine/Flags.lean ====
section
/-! DEFINITION. Every flag computation the spec gives: the values that go to `VF` (R136 to R140, R182), and the orders
in which a result and its flag are written (R143). -/

namespace Sys2Proof.Machine

/-- A flag as the byte that goes to `VF`: 1 or 0. -/
def flagByte (f : Bool) : Byte := if f then 1 else 0

/-- `a + b > 255` (R136). -/
def carryOut (a b : Byte) : Bool := decide (255 < a.toNat + b.toNat)

/-- `a > b`, strict (R137, R139). -/
def strictlyGreater (a b : Byte) : Bool := decide (b.toNat < a.toNat)

/-- Bit 0, shifted out by `SHR` (R138). -/
def shiftedOutLow (a : Byte) : Byte := a &&& 1

/-- Bit 7, shifted out by `SHL` (R140). -/
def shiftedOutHigh (a : Byte) : Byte := a >>> 7

/-- Result to `V[x]` first and the flag to `VF` last, so the flag wins when `x` is `VF` (R143, decision D8). -/
def State.writeResultThenFlag (s : State) (x : Reg) (result : Byte) (flag : Bool) : State :=
  (s.writeReg x result).writeReg Reg.vf (flagByte flag)

/-- Flag to `VF` first, then `V[x]` re-read and shifted (R138, R140, decision D9). -/
def State.flagThenShift (s : State) (x : Reg) (flag : Byte → Byte) (shift : Byte → Byte) : State :=
  let flagged := s.writeReg Reg.vf (flag (s.readReg x))
  flagged.writeReg x (shift (flagged.readReg x))

end Sys2Proof.Machine
end

