-- ==== Sys2Proof/Machine/ControlFlow.lean ====
section
/-! DEFINITION. The control-transfer instructions (spec/41_control_flow.md). Every meaning is given the state after the
fetch, in which `PC` already holds the address of the following word (R96). -/

namespace Sys2Proof.Machine

/-- `RET` (R110). -/
def execRet (s : State) : Host.Outcome State Fault Refusal :=
  if s.sp = 0 then .next (s.raise .stackUnderflow none) else .next s.popPc

/-- `JMP NNN` (R111). -/
def execJmp (nnn : Addr12) (s : State) : Host.Outcome State Fault Refusal :=
  .next (s.setPc (zextAddr nnn))

/-- `CALL NNN` (R112). An `SP` beyond the stack, which no run reaches (R36), counts as full (log entry 11). -/
def execCall (nnn : Addr12) (s : State) : Host.Outcome State Fault Refusal :=
  if s.params.stackDepth ≤ s.sp then .next (s.raise .stackOverflow none)
  else .next (s.pushPc.setPc (zextAddr nnn))

/-- `SE Vx, NN` (R113). -/
def execSeImm (x : Reg) (nn : Byte) (s : State) : Host.Outcome State Fault Refusal :=
  .next (s.skipIf (s.readReg x == nn))

/-- `SNE Vx, NN` (R114). -/
def execSneImm (x : Reg) (nn : Byte) (s : State) : Host.Outcome State Fault Refusal :=
  .next (s.skipIf (s.readReg x != nn))

/-- `SE Vx, Vy` (R115). -/
def execSeReg (x y : Reg) (s : State) : Host.Outcome State Fault Refusal :=
  .next (s.skipIf (s.readReg x == s.readReg y))

/-- `SNE Vx, Vy` (R116). -/
def execSneReg (x y : Reg) (s : State) : Host.Outcome State Fault Refusal :=
  .next (s.skipIf (s.readReg x != s.readReg y))

/-- `JMP V0, NNN` (R117). -/
def execJmpV0 (nnn : Addr12) (s : State) : Host.Outcome State Fault Refusal :=
  .next (s.setPc (s.indexedTarget nnn))

end Sys2Proof.Machine
end

