-- ==== Sys2Proof/Machine/Display.lean ====
section
/-! DEFINITION. The framebuffer instructions (spec/44_display.md). -/

namespace Sys2Proof.Machine

/-- `CLS` (R181). -/
def execCls (s : State) : Host.Outcome State Fault Refusal :=
  .next { s.setFb Framebuffer.blank with displayCleared := true }

/-- `DRW Vx, Vy, N` (R182): the rows that are on screen are drawn, `VF` takes the collision, and `DISPLAY_DIRTY` is set
whatever was drawn. -/
def execDrw (x y : Reg) (n : Nat) (s : State) : Host.Outcome State Fault Refusal :=
  if s.accessFits (s.visibleRows y n) then
    let drawing := s.drawSprite (s.startRow y) (s.startCol x) (s.visibleRows y n) (s.visibleCols x)
    .next { (s.setFb drawing.1).writeReg Reg.vf (flagByte drawing.2) with displayDirty := true }
  else .next s.raiseMemory

end Sys2Proof.Machine
end

