-- ==== Sys2Proof/Machine/IndexMemory.lean ====
section
/-! DEFINITION. The index register, BCD and block transfer instructions (spec/43_index_memory.md). `I` is never written
by a memory access (R166), and every access is checked whole before anything is written (R55). -/

namespace Sys2Proof.Machine

/-- `LD I, NNN` (R160). -/
def execLdI (nnn : Addr12) (s : State) : Host.Outcome State Fault Refusal :=
  .next (s.setI (zextAddr nnn))

/-- `ADD I, Vx`: modulo 65536, no flag (R161). -/
def execAddI (x : Reg) (s : State) : Host.Outcome State Fault Refusal :=
  .next (s.setI (s.i + zextByte (s.readReg x)))

/-- `LD F, Vx` (R162). -/
def execLdF (x : Reg) (s : State) : Host.Outcome State Fault Refusal :=
  .next (s.setI (glyphAddr (s.readReg x)))

/-- `BCD Vx` (R163). -/
def execBcd (x : Reg) (s : State) : Host.Outcome State Fault Refusal :=
  if s.accessFits 3 then .next (s.writeBytes (s.effAddr 0) (bcdDigits (s.readReg x))) else .next s.raiseMemory

/-- `LD [I], Vx` (R164). -/
def execStoreRegs (x : Reg) (s : State) : Host.Outcome State Fault Refusal :=
  if s.accessFits (x.val + 1) then .next (s.writeBytes (s.effAddr 0) (s.regBlock x)) else .next s.raiseMemory

/-- `LD Vx, [I]` (R165). -/
def execLoadRegs (x : Reg) (s : State) : Host.Outcome State Fault Refusal :=
  if s.accessFits (x.val + 1) then .next (s.loadBlock x) else .next s.raiseMemory

end Sys2Proof.Machine
end

