-- ==== Sys2Proof/Machine/KeypadTimers.lean ====
section
/-! DEFINITION. The keypad and timer-transfer instructions (spec/45_keypad_timers.md). -/

namespace Sys2Proof.Machine

/-- `SKP Vx` (R200). -/
def execSkp (x : Reg) (s : State) : Host.Outcome State Fault Refusal :=
  .next (s.skipIf (s.keyPressed (s.readReg x)))

/-- `SKNP Vx` (R201). -/
def execSknp (x : Reg) (s : State) : Host.Outcome State Fault Refusal :=
  .next (s.skipIf (!s.keyPressed (s.readReg x)))

/-- `LD Vx, K` (R202). -/
def execLdKey (x : Reg) (s : State) : Host.Outcome State Fault Refusal :=
  .next (s.keyWait x)

/-- `LD Vx, DT` (R203). -/
def execLdFromDt (x : Reg) (s : State) : Host.Outcome State Fault Refusal :=
  .next (s.writeReg x s.dt)

/-- `LD DT, Vx` (R204). -/
def execLdDt (x : Reg) (s : State) : Host.Outcome State Fault Refusal :=
  .next { s with dt := s.readReg x }

/-- `LD ST, Vx`: `TONE_ON` is not raised (R205). -/
def execLdSt (x : Reg) (s : State) : Host.Outcome State Fault Refusal :=
  .next { s with st := s.readReg x }

end Sys2Proof.Machine
end

