-- ==== Sys2Proof/Machine/LoadAlu.lean ====
section
/-! DEFINITION. The register load, ALU and random instructions (spec/42_load_alu.md). All arithmetic is on unsigned
bytes and wraps modulo 256 (R142). -/

namespace Sys2Proof.Machine

/-- `LD Vx, NN` (R130). -/
def execLdImm (x : Reg) (nn : Byte) (s : State) : Host.Outcome State Fault Refusal :=
  .next (s.writeReg x nn)

/-- `ADD Vx, NN`: no flag (R131). -/
def execAddImm (x : Reg) (nn : Byte) (s : State) : Host.Outcome State Fault Refusal :=
  .next (s.writeReg x (s.readReg x + nn))

/-- `LD Vx, Vy` (R132). -/
def execLdReg (x y : Reg) (s : State) : Host.Outcome State Fault Refusal :=
  .next (s.writeReg x (s.readReg y))

/-- `OR Vx, Vy`: `VF` is left as it was (R133). -/
def execOrReg (x y : Reg) (s : State) : Host.Outcome State Fault Refusal :=
  .next (s.writeReg x (s.readReg x ||| s.readReg y))

/-- `AND Vx, Vy`: `VF` is left as it was (R134). -/
def execAndReg (x y : Reg) (s : State) : Host.Outcome State Fault Refusal :=
  .next (s.writeReg x (s.readReg x &&& s.readReg y))

/-- `XOR Vx, Vy`: `VF` is left as it was (R135). -/
def execXorReg (x y : Reg) (s : State) : Host.Outcome State Fault Refusal :=
  .next (s.writeReg x (s.readReg x ^^^ s.readReg y))

/-- `ADD Vx, Vy`: carry to `VF` (R136). -/
def execAddReg (x y : Reg) (s : State) : Host.Outcome State Fault Refusal :=
  .next (s.writeResultThenFlag x (s.readReg x + s.readReg y) (carryOut (s.readReg x) (s.readReg y)))

/-- `SUB Vx, Vy`: `VF` set on strict greater-than (R137). -/
def execSubReg (x y : Reg) (s : State) : Host.Outcome State Fault Refusal :=
  .next (s.writeResultThenFlag x (s.readReg x - s.readReg y) (strictlyGreater (s.readReg x) (s.readReg y)))

/-- `SHR Vx`: `y` is ignored (R138). -/
def execShr (x _y : Reg) (s : State) : Host.Outcome State Fault Refusal :=
  .next (s.flagThenShift x shiftedOutLow (· >>> 1))

/-- `SUBN Vx, Vy`: the operands exchanged (R139). -/
def execSubnReg (x y : Reg) (s : State) : Host.Outcome State Fault Refusal :=
  .next (s.writeResultThenFlag x (s.readReg y - s.readReg x) (strictlyGreater (s.readReg y) (s.readReg x)))

/-- `SHL Vx`: `y` is ignored (R140). -/
def execShl (x _y : Reg) (s : State) : Host.Outcome State Fault Refusal :=
  .next (s.flagThenShift x shiftedOutHigh (· <<< 1))

/-- `RND Vx, NN`: a new draw each time (R141). -/
def execRnd (x : Reg) (nn : Byte) (s : State) : Host.Outcome State Fault Refusal :=
  .next (s.takeRandByte.writeReg x (nn &&& s.randByte))

end Sys2Proof.Machine
end

