-- ==== Sys2Proof/Machine/Cycle.lean ====
section
/-! DEFINITION. The cycle (spec/40_cycle_and_fetch.md): the flag reset, the two time gates, the instruction step with
its fetch, and what the call returns. -/

namespace Sys2Proof.Machine

/-- The first action of a cycle: the transient flags are cleared (R91), this cycle's snapshot of the keys is taken
(R206), and no result or diagnostic has been put out yet. -/
def State.beginCycle (s : State) (keys : Word) : State :=
  { s with
    displayDirty := false
    displayCleared := false
    toneOn := false
    ports := { s.ports with keys := keys, status := none, diagnostic := none } }

/-- The timer gate, strict (R92). -/
def State.timerGate (s : State) (now : Time) : Bool := decide (s.params.timerIntervalNs < elapsed now s.lastTimerTick)

/-- The instruction gate, strict (R93). -/
def State.instrGate (s : State) (now : Time) : Bool := decide (s.params.instrIntervalNs < elapsed now s.lastInstrTime)

/-- The timer part of a cycle: at most one decay, and the tick time recorded as `now` (R92, R101). -/
def State.timerPart (s : State) (now : Time) : State :=
  if s.timerGate now then { s.timerDecay with lastTimerTick := now } else s

/-- `Step(now, keys)` (R94): bounds check, fetch, advance, decode, dispatch; a decode miss is reported and ignored. -/
def instrStep (now : Time) (s : State) : Host.Outcome State Fault Refusal :=
  if s.pcInBounds then
    match decodeWord s.fetchWord with
    | .ok i => exec i (s.advance now)
    | .error _ => .next ((s.advance now).emitDecodeMiss s.fetchWord s.pc)
  else .next (s.raise .pcOutOfBounds (some s.pc.toNat))

/-- The end of a cycle call (R100): `Running`, unless the core has halted, where `raise` has put the result out, or is
blocked in a key wait, where the call has not returned (R202). -/
def State.endCycle (s : State) : State :=
  if s.halted || s.waiting.isSome then s else { s with ports := { s.ports with status := some .running } }

/-- The end of a cycle call, on the outcome of its instruction step. -/
def finishCycle : Host.Outcome State Fault Refusal → Host.Outcome State Fault Refusal
  | .next s => .next s.endCycle
  | .fault r => .fault r
  | .refused r => .refused r

/-- A cycle call on a halted core changes nothing and returns `Fatal(HALT_CAUSE)` again, without the recorded value
(R99, R100). -/
def State.haltedCycle (s : State) : State :=
  { s with ports := { s.ports with status := some (.fatal s.haltCause none), diagnostic := none } }

/-- `Cycle(now, keys)` (R90): the timer gate first, then the instruction gate, on one timestamp (R102, R103). -/
def cycle (call : HostCall) (s : State) : Host.Outcome State Fault Refusal :=
  if s.halted then .next s.haltedCycle
  else
    let timed := (s.beginCycle call.keys).timerPart call.now
    if timed.instrGate call.now then finishCycle (instrStep call.now timed) else .next timed.endCycle

/-- One step of the core: the next cycle call of the host, or, while a key wait is blocked, one more look at
`NextKeyPress()`, which ends the call in progress when it answers (R202, R243). -/
def cycleOrWait (s : State) : Host.Outcome State Fault Refusal :=
  match s.waiting with
  | some x => .next (s.keyWait x).endCycle
  | none => cycle s.hostCall s.takeHostCall

/-! ## Placing one instruction, for `withFetchWord` -/

/-- Store a table word where the next fetch reads it: at `PC`, or at 0x200 where no word can be fetched at `PC`. -/
def State.placeWord (s : State) (nbits w : Nat) : State :=
  let pc := if s.pcInBounds then s.pc else BitVec.ofNat 16 Config.progBase
  ({ s with pc := pc }).writeBytes pc.toNat (tableBytes nbits w)

/-- A running core that is not blocked. -/
def State.unhalted (s : State) : State := { s with halted := false, haltCause := .none, waiting := none }

/-- A timestamp that opens the instruction gate exists. -/
def State.gateCanOpen (s : State) : Bool := decide (s.lastInstrTime.toNat + s.params.instrIntervalNs + 1 < 2 ^ 64)

/-- The machine with an instruction time and interval after which the instruction gate can open: its own, or, where no
64-bit timestamp would do, time 0 and the default interval. -/
def State.openable (s : State) : State :=
  if s.gateCanOpen then s
  else { s with lastInstrTime := 0, params := { s.params with instrIntervalNs := 1000000 } }

/-- The host's next call comes at the first timestamp that opens the instruction gate, with the keys as they were. -/
def State.withOpeningCall (s : State) : State :=
  let now := BitVec.ofNat 64 (s.lastInstrTime.toNat + s.params.instrIntervalNs + 1)
  { s with ports := { s.ports with calls := ⟨now, s.ports.keys⟩ :: s.ports.calls } }

end Sys2Proof.Machine
end

