-- ==== Sys2Proof/Machine/Step.lean ====
section
/-! DEFINITION. The step of the machine, and placing one instruction where the next step runs it. -/

namespace Sys2Proof.Machine

/-- One step (R9, R90): see `cycleOrWait`. -/
def step (s : State) : Host.Outcome State Fault Refusal := cycleOrWait s

/-- `s` with a table word where the next fetch reads it, and the host call that makes the next step fetch it (log
entry 12). -/
def State.withFetchWord (s : State) (nbits w : Nat) : State :=
  ((s.unhalted.placeWord nbits w).openable).withOpeningCall

end Sys2Proof.Machine
end

