-- ==== Sys2Proof/Safety.lean ====
section
/-! DEFINITION. The terms claims are made in: the invariant every step keeps (R36), runs that stay running (R231), what
an instruction may change and what it must leave alone, and the pixel a sprite puts on a cell (R182). -/

namespace Sys2Proof.Machine

/-- The invariants of R36, with the form of memory and of the stack they rest on. -/
structure State.Inv (s : State) : Prop where
  /-- Memory is in its canonical form. -/
  memory : Memory.wf s.params.glyphs s.mem = true
  /-- The stack is an array of `STACK_DEPTH` entries (R25). -/
  stackLength : s.stack.length = s.params.stackDepth
  /-- `SP <= STACK_DEPTH`. -/
  stackPointer : s.sp ≤ s.params.stackDepth
  /-- A live entry is an address some `CALL` pushed, "hence at most 4096" (R110). -/
  liveEntries : ∀ k, k < s.sp → (s.stack.getD k 0).toNat ≤ 4096
  /-- `PC <= 0x10FE`. -/
  programCounter : s.pc.toNat ≤ 0x10FE
  /-- `HALTED = 1` implies `HALT_CAUSE != 0`, and `HALTED = 0` implies `HALT_CAUSE = 0`. -/
  haltCause : s.halted = true ↔ s.haltCause ≠ .none
  /-- `DISPLAY_DIRTY` and `DISPLAY_CLEARED` are never both 1. -/
  displayFlags : ¬ (s.displayDirty = true ∧ s.displayCleared = true)
  /-- Running, blocked and halted are three conditions: a blocked core is not halted (R252). -/
  blockedRuns : s.waiting ≠ none → s.halted = false

/-- The core is running and no cycle call is in progress: the next step is a cycle call that may run an instruction. -/
def State.ready (s : State) : Prop := s.halted = false ∧ s.waiting = none

/-- A run of `n` steps through which `HALTED = 0`, as a claim about a program should take for granted or prove (R231). -/
def State.runsSafely (s : State) (n : Nat) : Prop :=
  ∀ k, k ≤ n → ∃ t, Sys2Proof.core.run k s = .next t ∧ State.halted t = false

/-- The state on which the instruction gate of the next cycle call is tested: the call taken, the flags reset and the
timer part done (R90). -/
def State.timed (s : State) : State := (s.takeHostCall.beginCycle s.hostCall.keys).timerPart s.hostCall.now

/-- In the next step the instruction gate is open and the word at `PC` exists, so that word is fetched. -/
def State.fetches (s : State) : Prop :=
  s.ready ∧ s.timed.instrGate s.hostCall.now = true ∧ s.timed.pcInBounds = true

/-- The instruction the next step runs, if it runs one. -/
def State.runsInstr (s : State) (i : Instr) : Prop := s.fetches ∧ decodeWord s.timed.fetchWord = .ok i

/-- What an instruction, or a step, may change. Everything not named stays as it was. -/
structure MayChange where
  /-- General registers. -/
  regs : Reg → Prop := fun _ => False
  /-- Addresses of memory. -/
  bytes : Nat → Prop := fun _ => False
  /-- `I`. -/
  i : Prop := False
  /-- `PC`. -/
  pc : Prop := False
  /-- `SP` and `STACK`. -/
  stack : Prop := False
  /-- `DT`. -/
  dt : Prop := False
  /-- `ST`. -/
  st : Prop := False
  /-- `FB`. -/
  fb : Prop := False
  /-- `DISPLAY_DIRTY`. -/
  displayDirty : Prop := False
  /-- `DISPLAY_CLEARED`. -/
  displayCleared : Prop := False
  /-- `HALTED` and `HALT_CAUSE`. -/
  halt : Prop := False
  /-- Whether a key wait is blocked. -/
  waiting : Prop := False
  /-- The ports. -/
  ports : Prop := False
  /-- `TONE_ON`. -/
  toneOn : Prop := False
  /-- `LAST_TIMER_TICK`. -/
  lastTimerTick : Prop := False
  /-- `LAST_INSTR_TIME`. -/
  lastInstrTime : Prop := False

/-- From `s` to `t` nothing changed but what `m` names. The construction parameters are fixed for the life of the machine
(R6), so they are always among what stays. -/
structure Preserves (m : MayChange) (s t : State) : Prop where
  regs : ∀ r, ¬ m.regs r → t.readReg r = s.readReg r
  bytes : ∀ a, ¬ m.bytes a → t.readByte a = s.readByte a
  i : ¬ m.i → t.i = s.i
  pc : ¬ m.pc → t.pc = s.pc
  sp : ¬ m.stack → t.sp = s.sp
  stack : ¬ m.stack → t.stack = s.stack
  dt : ¬ m.dt → t.dt = s.dt
  st : ¬ m.st → t.st = s.st
  fb : ¬ m.fb → t.fb = s.fb
  displayDirty : ¬ m.displayDirty → t.displayDirty = s.displayDirty
  displayCleared : ¬ m.displayCleared → t.displayCleared = s.displayCleared
  halted : ¬ m.halt → t.halted = s.halted
  haltCause : ¬ m.halt → t.haltCause = s.haltCause
  waiting : ¬ m.waiting → t.waiting = s.waiting
  ports : ¬ m.ports → t.ports = s.ports
  toneOn : ¬ m.toneOn → t.toneOn = s.toneOn
  lastTimerTick : ¬ m.lastTimerTick → t.lastTimerTick = s.lastTimerTick
  lastInstrTime : ¬ m.lastInstrTime → t.lastInstrTime = s.lastInstrTime
  params : t.params = s.params

/-- A fatal condition as R230 describes it: from `s` to `t` only `HALTED`, `HALT_CAUSE` and the result changed. -/
def HaltsWith (cause : HaltCause) (info : Option Nat) (s t : State) : Prop :=
  t.halted = true ∧ t.haltCause = cause ∧ t.ports = { s.ports with status := some (.fatal cause info) } ∧
    Preserves { halt := True, ports := True } s t

/-- From `s` to `t` exactly one call was taken from the host, the next one written out or a free one (R90, R245). -/
def CallTaken (s t : State) : Prop :=
  t.ports.calls = s.ports.calls.tail ∧
    t.ports.freeCalls = if s.ports.calls = [] then s.ports.freeCalls + 1 else s.ports.freeCalls

/-- From `s` to `t` nothing was drawn from `RandByte()` (R245). -/
def DrawsKept (s t : State) : Prop :=
  t.ports.randBytes = s.ports.randBytes ∧ t.ports.freeBytes = s.ports.freeBytes

/-- From `s` to `t` no answer was taken from `NextKeyPress()` (R245). -/
def AnswersKept (s t : State) : Prop :=
  t.ports.keyAnswers = s.ports.keyAnswers ∧ t.ports.freeAnswers = s.ports.freeAnswers

/-- From `s` to `t` nothing was drawn and no answer was taken. -/
def InputsKept (s t : State) : Prop := DrawsKept s t ∧ AnswersKept s t

/-- The recorded value of a halted state (R227), where the halt leaves it: `PC` for a fetch out of bounds, the lowest
invalid address for a data access, nothing for the others. -/
def State.recordedValue (s : State) : Option Nat :=
  match s.haltCause with
  | .pcOutOfBounds => some s.pc.toNat
  | .memoryOutOfBounds => some (max s.i.toNat Config.memSize)
  | .none | .terminated | .stackOverflow | .stackUnderflow => none

/-- The pixel of the sprite at `I` that falls on cell `(q, p)` when `rows` rows and `cols` columns of it are drawn from
`(y0, x0)` on; off where the drawn area does not reach (R180, R182). -/
def State.spritePixel (s : State) (y0 x0 rows cols q p : Nat) : Bool :=
  decide (y0 ≤ q ∧ q < y0 + rows ∧ x0 ≤ p ∧ p < x0 + cols) &&
    (s.readByte (s.i.toNat + (q - y0))).getLsbD (7 - (p - x0))

/-- The pixel `DRW Vx, Vy, N` puts on cell `(q, p)`. -/
def State.drawnPixel (s : State) (x y : Reg) (n q p : Nat) : Bool :=
  s.spritePixel (s.startRow y) (s.startCol x) (s.visibleRows y n) (s.visibleCols x) q p

end Sys2Proof.Machine
end

