-- ==== Sys2Proof/Certificates/Slice0/Obligations.lean ====
section
/-! DEFINITION. The statements for the provers. Each docstring names the rules of spec/ it formalises; where a clause
rests on a decision, a derived sentence or a general-knowledge sentence of the spec, or on a convention of this model,
the docstring names it. `Preserves m s t` is the frame: nothing changed but what `m` names. -/

open Sys2Proof Sys2Proof.Machine

/-! ## Encoding -/

/-- R71: the six fields, and a decoder that gives every word an instruction or the decode miss. -/
def Obligations.FieldLayoutAndTotalDecoder : Prop :=
  ∀ w : Word,
    (opClass w).toNat = w.toNat / 4096 ∧
    (fieldX w).val = w.toNat / 256 % 16 ∧
    (fieldY w).val = w.toNat / 16 % 16 ∧
    (fieldN w).toNat = w.toNat % 16 ∧
    (fieldNN w).toNat = w.toNat % 256 ∧
    (fieldNNN w).toNat = w.toNat % 4096 ∧
    ((∃ i, decodeWord w = .ok i) ∨ decodeWord w = .error (.unrecognised w))

/-- Decoding the bytes of a well-formed instruction gives it back, with every operand (30_encoding.md sections 1 and 2;
the byte order is decision D1). -/
def Obligations.DecodingUndoesEncoding : Prop :=
  ∀ (i : Instr) (rest : List Byte), i.wf = true → decode (encode i ++ rest) = .ok (i, rest)

/-- A word that decodes to an instruction is that instruction's word, and the instruction is well formed: no two words
decode to the same `Instr` (30_encoding.md sections 1 and 2). For the shifts this is the model's choice (log entry 30): R77
says their `Y` is ignored, so 8106 and 8126 both mean `SHR V1`, and they decode to two terms because `Instr` keeps `Y`. -/
def Obligations.EncodingUndoesDecoding : Prop :=
  ∀ (w : Word) (i : Instr), decodeWord w = .ok i → encodeWord i = w ∧ i.wf = true

/-- The decode procedure of R74 over the table of R75: an instruction is decoded exactly where its row matches, and a
word no row matches is unrecognised. That no two rows match one word is a derived sentence of R74, and the exactness of
sub-opcodes is decision D15. -/
def Obligations.DecoderFollowsOpcodeTable : Prop :=
  ∀ w : Word,
    (∀ i, decodeWord w = .ok i → i.row ∈ opcodeTable ∧ i.row.selects w = true) ∧
    (∀ r ∈ opcodeTable, r.selects w = true → ∃ i, decodeWord w = .ok i ∧ i.row = r) ∧
    ((∀ r ∈ opcodeTable, r.selects w = false) → decodeWord w = .error (.unrecognised w))

/-- The unrecognised words, class by class (R76). -/
def Obligations.UnrecognisedWordsAreTheListedOnes : Prop :=
  ∀ w : Word, decodeWord w = .error (.unrecognised w) ↔
    (opClass w = 0x0 ∧ w ≠ 0x00E0 ∧ w ≠ 0x00EE) ∨
    ((opClass w = 0x5 ∨ opClass w = 0x9) ∧ fieldN w ≠ 0x0) ∨
    (opClass w = 0x8 ∧ (fieldN w = 0x8 ∨ fieldN w = 0x9 ∨ fieldN w = 0xA ∨ fieldN w = 0xB ∨ fieldN w = 0xC ∨
      fieldN w = 0xD ∨ fieldN w = 0xF)) ∨
    (opClass w = 0xE ∧ fieldNN w ≠ 0x9E ∧ fieldNN w ≠ 0xA1) ∨
    (opClass w = 0xF ∧ fieldNN w ≠ 0x07 ∧ fieldNN w ≠ 0x0A ∧ fieldNN w ≠ 0x15 ∧ fieldNN w ≠ 0x18 ∧
      fieldNN w ≠ 0x1E ∧ fieldNN w ≠ 0x29 ∧ fieldNN w ≠ 0x33 ∧ fieldNN w ≠ 0x55 ∧ fieldNN w ≠ 0x65)

/-- Fourteen words written out from the patterns of R75, one or more of each family: twelve decode to their instruction
and two are decode misses. The high byte first is decision D1 (log entry 15), that 5121 is a decode miss rests on decision
D15 (log entry 23), and the sub-opcode E of `SHL` is a general-knowledge sentence of the spec (G2, log entry 17). -/
def Obligations.WrittenOutWordsDecode : Prop :=
  decode [0x00, 0xE0] = .ok (.cls, []) ∧ decode [0x00, 0xEE] = .ok (.ret, []) ∧
  decode [0x23, 0x00] = .ok (.call 0x300, []) ∧ decode [0xBF, 0xFF] = .ok (.jmpV0 0xFFF, []) ∧
  decode [0x8A, 0xB0] = .ok (.ldReg 0xA 0xB, []) ∧ decode [0x81, 0x2E] = .ok (.shl 1 2, []) ∧
  decode [0xC3, 0x0F] = .ok (.rnd 3 0x0F, []) ∧ decode [0xA2, 0xF0] = .ok (.ldI 0x2F0, []) ∧
  decode [0xF3, 0x33] = .ok (.bcd 3, []) ∧ decode [0xD1, 0x25] = .ok (.drw 1 2 5, []) ∧
  decode [0xE2, 0x9E] = .ok (.skp 2, []) ∧ decode [0xF3, 0x0A] = .ok (.ldKey 3, []) ∧
  decode [0x00, 0x01] = .error (.unrecognised 0x0001) ∧ decode [0x51, 0x21] = .error (.unrecognised 0x5121)

/-! ## The cycle and the instruction step -/

/-- The instruction step of R94: the bounds check (decision D4 for `PC` = 4095), the fetch of two bytes (high byte first,
decision D1), the advance, and the dispatch or the diagnostic (decision D16). -/
def Obligations.StepFetchesAdvancesAndDispatches : Prop :=
  ∀ (now : Time) (s : State),
    (4095 ≤ s.pc.toNat → instrStep now s = .next (s.raise .pcOutOfBounds (some s.pc.toNat))) ∧
    (s.pc.toNat ≤ 4094 →
      let w := wordOfBytes (s.readByte s.pc.toNat) (s.readByte (s.pc.toNat + 1))
      let fetched : State := { s with pc := s.pc + 2, lastInstrTime := now }
      (∀ i, decodeWord w = .ok i → instrStep now s = exec i fetched) ∧
      (∀ e, decodeWord w = .error e →
        instrStep now s = .next { fetched with ports := { s.ports with diagnostic := some ⟨w, s.pc⟩ } }))

/-- A step runs the decoded instruction: when the core is ready, the instruction gate of the next host call is open and
the bytes at `PC` decode to `i`, the step is `exec i`, before it the flag reset and timer part of the cycle (`timed`)
and the fetch's advance, after it the result of the call (`finishCycle`). -/
def Obligations.StepRunsTheDecodedInstruction : Prop :=
  ∀ (s : State) (i : Instr), s.ready → s.pc.toNat ≤ 4094 →
    s.params.instrIntervalNs < s.hostCall.now.toNat - s.lastInstrTime.toNat →
    decode [s.readByte s.pc.toNat, s.readByte (s.pc.toNat + 1)] = .ok (i, []) →
    step s = finishCycle (exec i (s.timed.advance s.hostCall.now))

/-- What a cycle leaves when neither gate is open: the transient flags are cleared, the call is taken from the host and
returns `Running`, and nothing else changes, the other inputs among it (R90, R91, R245; the strictness of the gates is decisions D18 and D19, saturation decision D21). -/
def Obligations.QuietCycleOnlyClearsFlags : Prop :=
  ∀ s : State, s.ready →
    s.hostCall.now.toNat - s.lastTimerTick.toNat ≤ s.params.timerIntervalNs →
    s.hostCall.now.toNat - s.lastInstrTime.toNat ≤ s.params.instrIntervalNs →
    ∃ t, step s = .next t ∧
      t.displayDirty = false ∧ t.displayCleared = false ∧ t.toneOn = false ∧
      t.ports.status = some .running ∧ t.ports.diagnostic = none ∧ CallTaken s t ∧ InputsKept s t ∧
      Preserves { displayDirty := True, displayCleared := True, toneOn := True, ports := True } s t

/-- What a cycle does when only the timer gate is open: one decrement of each timer, however long the elapsed time, the
tick recorded as `now`, and the tone flag from `ST` after the decrement; of the inputs only the call is taken (R92, R240,
R241, R245; decisions D17 and D18). -/
def Obligations.TimerGateDecaysOnce : Prop :=
  ∀ s : State, s.ready →
    s.params.timerIntervalNs < s.hostCall.now.toNat - s.lastTimerTick.toNat →
    s.hostCall.now.toNat - s.lastInstrTime.toNat ≤ s.params.instrIntervalNs →
    ∃ t, step s = .next t ∧
      t.dt.toNat = s.dt.toNat - 1 ∧ t.st.toNat = s.st.toNat - 1 ∧ t.lastTimerTick = s.hostCall.now ∧
      (t.toneOn = true ↔ 1 < s.st.toNat) ∧ t.displayDirty = false ∧ t.displayCleared = false ∧
      t.ports.status = some .running ∧ t.ports.diagnostic = none ∧ CallTaken s t ∧ InputsKept s t ∧
      Preserves
        { dt := True, st := True, displayDirty := True, displayCleared := True, toneOn := True, lastTimerTick := True,
          ports := True } s t

/-- `n` decays take each timer `n` counts down, never below zero, and touch nothing but the timers and the tone flag,
which says whether `ST` is non-zero after the last of them (R240; decision D17). -/
def Obligations.DecaysCountDownToZero : Prop :=
  ∀ (s : State) (n : Nat),
    (State.timerDecay^[n] s).dt.toNat = s.dt.toNat - n ∧
    (State.timerDecay^[n] s).st.toNat = s.st.toNat - n ∧
    (0 < n → ((State.timerDecay^[n] s).toneOn = true ↔ n < s.st.toNat)) ∧
    Preserves { dt := True, st := True, toneOn := True } s (State.timerDecay^[n] s)

/-- Timer first: in a cycle where both gates are open `LD Vx, DT` reads the decremented timer, and a write to a timer
is not touched by this cycle's decay (R103; decision D20). -/
def Obligations.TimerGateComesFirst : Prop :=
  ∀ (s : State) (x : Reg),
    s.params.timerIntervalNs < s.hostCall.now.toNat - s.lastTimerTick.toNat →
    (s.runsInstr (.ldFromDt x) → ∃ t, step s = .next t ∧ (t.readReg x).toNat = s.dt.toNat - 1) ∧
    (s.runsInstr (.ldDt x) → ∃ t, step s = .next t ∧ t.dt = s.readReg x ∧ t.st.toNat = s.st.toNat - 1) ∧
    (s.runsInstr (.ldSt x) → ∃ t, step s = .next t ∧ t.st = s.readReg x ∧ t.dt.toNat = s.dt.toNat - 1)

/-- A decode miss: the word is a two-byte no-op and the diagnostic carries the word and the address it was fetched
from; the cycle returns `Running`, and of the inputs only the call is taken. `s.timed` is `s` after the cycle's flag reset
and timer part (R98, R245; decision D16). -/
def Obligations.UnrecognisedWordIsReportedAndSkipped : Prop :=
  ∀ (s : State) (e : DecodeError), s.fetches → decodeWord s.timed.fetchWord = .error e →
    ∃ t, step s = .next t ∧
      t.pc.toNat = s.pc.toNat + 2 ∧ t.lastInstrTime = s.hostCall.now ∧
      t.ports.diagnostic = some ⟨wordOfBytes (s.readByte s.pc.toNat) (s.readByte (s.pc.toNat + 1)), s.pc⟩ ∧
      t.ports.status = some .running ∧ CallTaken s t ∧ InputsKept s t ∧
      Preserves { pc := True, lastInstrTime := True, ports := True } s.timed t

/-- A fetch past the end of memory halts the core with `PcOutOfBounds` and the offending `PC`, before anything is read:
after the cycle's flag reset and timer part (`s.timed`) nothing but the halt registers and the result changes, not even
`PC` and the instruction time, and of the inputs only the call is taken (R95, R221, R245; decision D4 for `PC` = 4095). -/
def Obligations.FetchPastMemoryHalts : Prop :=
  ∀ s : State, s.ready → 4095 ≤ s.pc.toNat →
    s.params.instrIntervalNs < s.hostCall.now.toNat - s.lastInstrTime.toNat →
    ∃ t, step s = .next t ∧ HaltsWith .pcOutOfBounds (some s.pc.toNat) s.timed t ∧ CallTaken s t ∧ InputsKept s t

/-- A halted core stays as it is for ever: every later cycle changes nothing but the ports, and returns the cause
(R99, R231; decision D22). Nothing but host calls is taken from the inputs. -/
def Obligations.HaltedCoreNeverChanges : Prop :=
  ∀ (s : State) (n : Nat), s.halted = true → s.waiting = none →
    ∃ t, Sys2Proof.core.run n s = .next t ∧ { t with ports := s.ports } = s ∧ InputsKept s t ∧
      (0 < n → State.ports t = { t.ports with status := some (.fatal s.haltCause none), diagnostic := none })

/-! ## Control transfer -/

/-- R111, `JMP NNN`. -/
def Obligations.JumpLoadsAddress : Prop :=
  ∀ (nnn : Addr12) (s : State),
    ∃ t, exec (.jmp nnn) s = .next t ∧ t.pc.toNat = nnn.toNat ∧ Preserves { pc := True } s t

/-- R117, `JMP V0, NNN`: always register 0, and the sum is not reduced modulo 4096 (decision D2). -/
def Obligations.IndexedJumpAddsRegisterZero : Prop :=
  ∀ (nnn : Addr12) (s : State),
    ∃ t, exec (.jmpV0 nnn) s = .next t ∧ t.pc.toNat = nnn.toNat + (s.readReg 0).toNat ∧ Preserves { pc := True } s t

/-- R113 and R114, the skips on an immediate. -/
def Obligations.SkipComparesImmediate : Prop :=
  ∀ (x : Reg) (nn : Byte) (s : State),
    (∃ t, exec (.seImm x nn) s = .next t ∧
      t.pc = (if s.readReg x = nn then s.pc + 2 else s.pc) ∧ Preserves { pc := True } s t) ∧
    (∃ t, exec (.sneImm x nn) s = .next t ∧
      t.pc = (if s.readReg x ≠ nn then s.pc + 2 else s.pc) ∧ Preserves { pc := True } s t)

/-- R115 and R116, the skips on a register. -/
def Obligations.SkipComparesRegisters : Prop :=
  ∀ (x y : Reg) (s : State),
    (∃ t, exec (.seReg x y) s = .next t ∧
      t.pc = (if s.readReg x = s.readReg y then s.pc + 2 else s.pc) ∧ Preserves { pc := True } s t) ∧
    (∃ t, exec (.sneReg x y) s = .next t ∧
      t.pc = (if s.readReg x ≠ s.readReg y then s.pc + 2 else s.pc) ∧ Preserves { pc := True } s t)

/-- R200 and R201, the skips on a key: exact complements, and a register above 15 names no key (decision D13). In a step
the snapshot they test is the `keys` argument of this cycle's own call (R94, R206; held in the ports by log entry 7). -/
def Obligations.SkipTestsKeySnapshot : Prop :=
  (∀ (x : Reg) (s : State),
    (∃ t, exec (.skp x) s = .next t ∧
      t.pc = (if (s.readReg x).toNat ≤ 15 ∧ s.ports.keys.getLsbD (s.readReg x).toNat = true then s.pc + 2 else s.pc) ∧
      Preserves { pc := True } s t) ∧
    (∃ t, exec (.sknp x) s = .next t ∧
      t.pc = (if (s.readReg x).toNat ≤ 15 ∧ s.ports.keys.getLsbD (s.readReg x).toNat = true then s.pc else s.pc + 2) ∧
      Preserves { pc := True } s t)) ∧
  (∀ (x : Reg) (s : State), s.runsInstr (.skp x) →
    ∃ t, step s = .next t ∧
      t.pc.toNat =
        if (s.readReg x).toNat ≤ 15 ∧ s.hostCall.keys.getLsbD (s.readReg x).toNat = true then s.pc.toNat + 4
        else s.pc.toNat + 2) ∧
  (∀ (x : Reg) (s : State), s.runsInstr (.sknp x) →
    ∃ t, step s = .next t ∧
      t.pc.toNat =
        if (s.readReg x).toNat ≤ 15 ∧ s.hostCall.keys.getLsbD (s.readReg x).toNat = true then s.pc.toNat + 2
        else s.pc.toNat + 4)

/-- R112, `CALL NNN`: the advanced `PC` is pushed; on a full stack the core halts before any write (decision D6). -/
def Obligations.CallPushesReturnAddress : Prop :=
  ∀ (nnn : Addr12) (s : State), s.stack.length = s.params.stackDepth → s.sp ≤ s.params.stackDepth →
    (s.sp < s.params.stackDepth →
      ∃ t, exec (.call nnn) s = .next t ∧ t.pc.toNat = nnn.toNat ∧ t.sp = s.sp + 1 ∧
        t.stack[s.sp]? = some s.pc ∧ (∀ k, k ≠ s.sp → t.stack[k]? = s.stack[k]?) ∧
        Preserves { pc := True, stack := True } s t) ∧
    (s.sp = s.params.stackDepth →
      ∃ t, exec (.call nnn) s = .next t ∧ HaltsWith .stackOverflow none s t)

/-- R110, `RET`: the top entry is popped and stays unerased; on an empty stack the core halts before any write
(decision D6). -/
def Obligations.ReturnPopsAddress : Prop :=
  ∀ s : State, s.stack.length = s.params.stackDepth → s.sp ≤ s.params.stackDepth →
    (0 < s.sp →
      ∃ t, exec .ret s = .next t ∧ s.stack[s.sp - 1]? = some t.pc ∧ t.sp = s.sp - 1 ∧ t.stack = s.stack ∧
        Preserves { pc := True, stack := True } s t) ∧
    (s.sp = 0 → ∃ t, exec .ret s = .next t ∧ HaltsWith .stackUnderflow none s t)

/-- "CALL immediately followed by RET restores the program counter to the instruction after the CALL" (R112): `s` is
the state after the fetch of the `CALL`, and `RET` runs on any state the next fetch may leave. -/
def Obligations.ReturnAfterCallComesBack : Prop :=
  ∀ (nnn : Addr12) (s : State), s.stack.length = s.params.stackDepth → s.sp < s.params.stackDepth →
    ∃ t, exec (.call nnn) s = .next t ∧
      ∀ (pc : Word) (now : Time), ∃ u, exec .ret { t with pc := pc, lastInstrTime := now } = .next u ∧
        u.pc = s.pc ∧ u.sp = s.sp

/-- R24, where `PC` comes from: an instruction leaves it, skips one word, or transfers control as its own rule says. -/
def Obligations.ProgramCounterSources : Prop :=
  ∀ (i : Instr) (s t : State), exec i s = .next t →
    t.pc = s.pc ∨
    (t.pc = s.pc + 2 ∧
      ((∃ x nn, i = .seImm x nn ∨ i = .sneImm x nn) ∨ (∃ x y, i = .seReg x y ∨ i = .sneReg x y) ∨
        (∃ x, i = .skp x ∨ i = .sknp x))) ∨
    (∃ nnn, (i = .jmp nnn ∨ i = .call nnn) ∧ t.pc.toNat = nnn.toNat) ∨
    (∃ nnn, i = .jmpV0 nnn ∧ t.pc.toNat = nnn.toNat + (s.readReg 0).toNat) ∨
    (i = .ret ∧ t.pc = s.stack.getD (s.sp - 1) 0)

/-! ## Loads, arithmetic and logic -/

/-- R130 and R131: load immediate, and add immediate modulo 256 with no flag (the frame leaves `VF` alone unless it is
the destination). -/
def Obligations.ImmediateLoadAndAdd : Prop :=
  ∀ (x : Reg) (nn : Byte) (s : State),
    (∃ t, exec (.ldImm x nn) s = .next t ∧ t.readReg x = nn ∧ Preserves { regs := fun r => r = x } s t) ∧
    (∃ t, exec (.addImm x nn) s = .next t ∧ (t.readReg x).toNat = ((s.readReg x).toNat + nn.toNat) % 256 ∧
      Preserves { regs := fun r => r = x } s t)

/-- R132 to R135: copy, OR, AND, XOR, none of which touches `VF` unless it is the destination. -/
def Obligations.CopyAndLogic : Prop :=
  ∀ (x y : Reg) (s : State),
    (∃ t, exec (.ldReg x y) s = .next t ∧ t.readReg x = s.readReg y ∧ Preserves { regs := fun r => r = x } s t) ∧
    (∃ t, exec (.orReg x y) s = .next t ∧
      (∀ k, (t.readReg x).getLsbD k = ((s.readReg x).getLsbD k || (s.readReg y).getLsbD k)) ∧
      Preserves { regs := fun r => r = x } s t) ∧
    (∃ t, exec (.andReg x y) s = .next t ∧
      (∀ k, (t.readReg x).getLsbD k = ((s.readReg x).getLsbD k && (s.readReg y).getLsbD k)) ∧
      Preserves { regs := fun r => r = x } s t) ∧
    (∃ t, exec (.xorReg x y) s = .next t ∧
      (∀ k, (t.readReg x).getLsbD k = ((s.readReg x).getLsbD k ^^ (s.readReg y).getLsbD k)) ∧
      Preserves { regs := fun r => r = x } s t)

/-- R136, `ADD Vx, Vy`: the sum modulo 256 and the carry, written last, so that with `x` = 15 the carry stays
(decision D8). -/
def Obligations.AddSetsCarry : Prop :=
  ∀ (x y : Reg) (s : State),
    ∃ t, exec (.addReg x y) s = .next t ∧
      t.readReg 15 = (if 255 < (s.readReg x).toNat + (s.readReg y).toNat then 1 else 0) ∧
      (x ≠ 15 → (t.readReg x).toNat = ((s.readReg x).toNat + (s.readReg y).toNat) % 256) ∧
      Preserves { regs := fun r => r = x ∨ r = 15 } s t

/-- R137, `SUB Vx, Vy`: the difference modulo 256 and the strict greater-than flag, written last, so that with
`x` = 15 the flag stays (decision D8). -/
def Obligations.SubtractSetsStrictFlag : Prop :=
  ∀ (x y : Reg) (s : State),
    ∃ t, exec (.subReg x y) s = .next t ∧
      t.readReg 15 = (if (s.readReg y).toNat < (s.readReg x).toNat then 1 else 0) ∧
      (x ≠ 15 → (t.readReg x).toNat = ((s.readReg x).toNat + 256 - (s.readReg y).toNat) % 256) ∧
      Preserves { regs := fun r => r = x ∨ r = 15 } s t

/-- R139, `SUBN Vx, Vy`: the operands exchanged; that the result is `V[y] - V[x]` is a general-knowledge sentence of
the spec, and "else 0" is taken over from `SUB`; that the flag stays with `x` = 15 is decision D8. -/
def Obligations.ReverseSubtractSetsStrictFlag : Prop :=
  ∀ (x y : Reg) (s : State),
    ∃ t, exec (.subnReg x y) s = .next t ∧
      t.readReg 15 = (if (s.readReg x).toNat < (s.readReg y).toNat then 1 else 0) ∧
      (x ≠ 15 → (t.readReg x).toNat = ((s.readReg y).toNat + 256 - (s.readReg x).toNat) % 256) ∧
      Preserves { regs := fun r => r = x ∨ r = 15 } s t

/-- R138 and R140, the shifts: flag first, then the shift of the register as it now stands, so that with `x` = 15 the
flag itself is shifted (a derived sentence of the rules, decision D9); `y` is ignored. -/
def Obligations.ShiftsWriteFlagFirst : Prop :=
  ∀ (x y : Reg) (s : State),
    (∃ t, exec (.shr x y) s = .next t ∧
      (x ≠ 15 → (t.readReg 15).toNat = (s.readReg x).toNat % 2 ∧ (t.readReg x).toNat = (s.readReg x).toNat / 2) ∧
      (x = 15 → t.readReg 15 = 0) ∧
      Preserves { regs := fun r => r = x ∨ r = 15 } s t) ∧
    (∃ t, exec (.shl x y) s = .next t ∧
      (x ≠ 15 → (t.readReg 15).toNat = (s.readReg x).toNat / 128 ∧
        (t.readReg x).toNat = 2 * (s.readReg x).toNat % 256) ∧
      (x = 15 → (t.readReg 15).toNat = 2 * ((s.readReg 15).toNat / 128)) ∧
      Preserves { regs := fun r => r = x ∨ r = 15 } s t)

/-- R141, `RND Vx, NN`: the draw masked, whatever the draw, and a new draw each time; nothing else changes. How the
environment's draws are supplied is this model's choice (log entry 4). -/
def Obligations.RandomIsMaskedDraw : Prop :=
  ∀ (x : Reg) (nn : Byte) (s : State),
    ∃ t, exec (.rnd x nn) s = .next t ∧
      (∀ k, (t.readReg x).getLsbD k = (nn.getLsbD k && s.randByte.getLsbD k)) ∧
      (∀ r rest, s.ports.randBytes = r :: rest → s.randByte = r ∧ t.ports = { s.ports with randBytes := rest }) ∧
      (s.ports.randBytes = [] → s.randByte = Config.freeRandByte s.ports.freeBytes ∧
        t.ports = { s.ports with freeBytes := s.ports.freeBytes + 1 }) ∧
      Preserves { regs := fun r => r = x, ports := True } s t

/-- R271, who overwrites `VF`: the five arithmetic instructions and `DRW`; any other instruction changes it only as its
destination, as the last register of a block load, or as the register a key is stored in. -/
def Obligations.FlagRegisterWriters : Prop :=
  ∀ (i : Instr) (s t : State), exec i s = .next t → t.readReg 15 ≠ s.readReg 15 →
    (∃ x y, i = .addReg x y ∨ i = .subReg x y ∨ i = .shr x y ∨ i = .subnReg x y ∨ i = .shl x y) ∨
    (∃ x y n, i = .drw x y n) ∨
    (∃ nn, i = .ldImm 15 nn ∨ i = .addImm 15 nn ∨ i = .rnd 15 nn) ∨
    (∃ y, i = .ldReg 15 y ∨ i = .orReg 15 y ∨ i = .andReg 15 y ∨ i = .xorReg 15 y) ∨
    i = .ldFromDt 15 ∨ i = .ldKey 15 ∨ i = .loadRegs 15

/-! ## Index register and memory -/

/-- R160 and R161: load index, and add a register to it modulo 65536 with no flag. -/
def Obligations.IndexLoadAndAdd : Prop :=
  (∀ (nnn : Addr12) (s : State),
    ∃ t, exec (.ldI nnn) s = .next t ∧ t.i.toNat = nnn.toNat ∧ Preserves { i := True } s t) ∧
  (∀ (x : Reg) (s : State),
    ∃ t, exec (.addI x) s = .next t ∧ t.i.toNat = (s.i.toNat + (s.readReg x).toNat) % 65536 ∧
      Preserves { i := True } s t)

/-- R162, `LD F, Vx`: five times the whole byte, not its low nibble (decision D14). -/
def Obligations.GlyphAddressIsFiveTimesRegister : Prop :=
  ∀ (x : Reg) (s : State),
    ∃ t, exec (.ldF x) s = .next t ∧ t.i.toNat = 5 * (s.readReg x).toNat ∧ Preserves { i := True } s t

/-- R163, `BCD Vx`: three digits at `I` on, every other byte unchanged; past 4095 the core halts and nothing is
written (decision D7). -/
def Obligations.BcdStoresDecimalDigits : Prop :=
  ∀ (x : Reg) (s : State), Memory.wf s.params.glyphs s.mem = true →
    (s.i.toNat ≤ 4093 →
      ∃ t, exec (.bcd x) s = .next t ∧
        (t.readByte (s.effAddr 0)).toNat = (s.readReg x).toNat / 100 ∧
        (t.readByte (s.effAddr 1)).toNat = (s.readReg x).toNat / 10 % 10 ∧
        (t.readByte (s.effAddr 2)).toNat = (s.readReg x).toNat % 10 ∧
        Preserves { bytes := fun a => s.effAddr 0 ≤ a ∧ a < s.effAddr 0 + 3 } s t) ∧
    (4093 < s.i.toNat →
      ∃ t, exec (.bcd x) s = .next t ∧ HaltsWith .memoryOutOfBounds (some (max s.i.toNat 4096)) s t)

/-- R164, `LD [I], Vx`: registers `V0` to `Vx` at `I` on, every other byte unchanged; past 4095 the core halts before
any write (decision D7). -/
def Obligations.BlockStoreCopiesRegisters : Prop :=
  ∀ (x : Reg) (s : State), Memory.wf s.params.glyphs s.mem = true →
    (s.i.toNat + x.val ≤ 4095 →
      ∃ t, exec (.storeRegs x) s = .next t ∧
        (∀ k : Reg, k ≤ x → t.readByte (s.effAddr k.val) = s.readReg k) ∧
        Preserves { bytes := fun a => s.effAddr 0 ≤ a ∧ a < s.effAddr 0 + (x.val + 1) } s t) ∧
    (4095 < s.i.toNat + x.val →
      ∃ t, exec (.storeRegs x) s = .next t ∧ HaltsWith .memoryOutOfBounds (some (max s.i.toNat 4096)) s t)

/-- R165, `LD Vx, [I]`: registers `V0` to `Vx` from `I` on, those above untouched; past 4095 the core halts before any
write (decision D7). -/
def Obligations.BlockLoadCopiesMemory : Prop :=
  ∀ (x : Reg) (s : State),
    (s.i.toNat + x.val ≤ 4095 →
      ∃ t, exec (.loadRegs x) s = .next t ∧
        (∀ k : Reg, k ≤ x → t.readReg k = s.readByte (s.effAddr k.val)) ∧
        Preserves { regs := fun r => r ≤ x } s t) ∧
    (4095 < s.i.toNat + x.val →
      ∃ t, exec (.loadRegs x) s = .next t ∧ HaltsWith .memoryOutOfBounds (some (max s.i.toNat 4096)) s t)

/-- Stores are seen by the very next fetch, wherever `PC` points (R63, a derived sentence): after a block store, the
word at `PC` is made of stored bytes where they cover it. -/
def Obligations.FetchSeesStoredBytes : Prop :=
  ∀ (x : Reg) (s : State), Memory.wf s.params.glyphs s.mem = true → s.i.toNat + x.val ≤ 4095 →
    ∃ t, exec (.storeRegs x) s = .next t ∧
      ∀ k j : Reg, k ≤ x → j ≤ x → s.pc.toNat = s.effAddr k.val → s.pc.toNat + 1 = s.effAddr j.val →
        t.fetchWord = wordOfBytes (s.readReg k) (s.readReg j)

/-- Only `BCD` and `LD [I], Vx` change memory, and only the bytes they store (R50, R57). -/
def Obligations.OnlyStoresChangeMemory : Prop :=
  ∀ (s t : State) (a : Nat), step s = .next t → t.readByte a ≠ s.readByte a →
    ∃ x, (s.runsInstr (.bcd x) ∧ s.i.toNat ≤ a ∧ a ≤ s.i.toNat + 2) ∨
      (s.runsInstr (.storeRegs x) ∧ s.i.toNat ≤ a ∧ a ≤ s.i.toNat + x.val)

/-! ## Display -/

/-- R181, `CLS`: every cell off and `DISPLAY_CLEARED` set; `VF` and `DISPLAY_DIRTY` are not written. -/
def Obligations.ClearTurnsEveryCellOff : Prop :=
  ∀ s : State, ∃ t, exec .cls s = .next t ∧
    (∀ y x, y < 32 → x < 64 → t.fb.cell y x = false) ∧ t.displayCleared = true ∧
    Preserves { fb := True, displayCleared := True } s t

/-- R182, `DRW Vx, Vy, N`: the sprite at `I` is XORed into the cells it reaches, from the wrapped start position on and
clipped at the edges; `VF` says whether an on cell was turned off, and `DISPLAY_DIRTY` is always set. A `VF` coordinate
reads 0 (decision D10), clipped rows are not fetched (D11), and a drawn row above 4095 halts the core with nothing
written (D7). -/
def Obligations.DrawXorsSprite : Prop :=
  ∀ (x y : Reg) (n : Nat) (s : State),
    let x0 := (if x = 15 then 0 else (s.readReg x).toNat) % 64
    let y0 := (if y = 15 then 0 else (s.readReg y).toNat) % 32
    let rows := min n (32 - y0)
    let cols := min 8 (64 - x0)
    (rows = 0 ∨ s.i.toNat + rows ≤ 4096 →
      ∃ t, exec (.drw x y n) s = .next t ∧
        (∀ q p, t.fb.cell q p = (s.fb.cell q p ^^ s.spritePixel y0 x0 rows cols q p)) ∧
        (t.readReg 15 = 0 ∨ t.readReg 15 = 1) ∧
        (t.readReg 15 = 1 ↔ ∃ q p, s.spritePixel y0 x0 rows cols q p = true ∧ s.fb.cell q p = true) ∧
        t.displayDirty = true ∧
        Preserves { regs := fun r => r = 15, fb := True, displayDirty := True } s t) ∧
    (0 < rows → 4096 < s.i.toNat + rows →
      ∃ t, exec (.drw x y n) s = .next t ∧ HaltsWith .memoryOutOfBounds (some (max s.i.toNat 4096)) s t)

/-- R183 (derived from R182): drawing the same sprite twice with nothing it depends on changed between restores the
framebuffer, and the second draw reports a collision exactly when some drawn pixel lay over a cell that was off. -/
def Obligations.DrawingTwiceRestoresScreen : Prop :=
  ∀ (x y : Reg) (n : Nat) (s : State), s.accessFits (s.visibleRows y n) = true →
    ∃ t, exec (.drw x y n) s = .next t ∧
      ∀ t' : State, t'.fb = t.fb → t'.v = t.v → t'.i = t.i → t'.mem = t.mem → t'.params = t.params →
        ∃ u, exec (.drw x y n) t' = .next u ∧ u.fb = s.fb ∧
          (u.readReg 15 = 0 ∨ u.readReg 15 = 1) ∧
          (u.readReg 15 = 1 ↔ ∃ q p, s.drawnPixel x y n q p = true ∧ s.fb.cell q p = false ∧ q < 32 ∧ p < 64)

/-- Who sets the transient flags: `DISPLAY_DIRTY` only `DRW`, `DISPLAY_CLEARED` only `CLS`, `TONE_ON` only a timer gate
that is open and leaves `ST` non-zero (R29, R241; decision D17). -/
def Obligations.TransientFlagsHaveOneSource : Prop :=
  ∀ s t : State, s.ready → step s = .next t →
    (t.displayDirty = true → ∃ x y n, s.runsInstr (.drw x y n)) ∧
    (t.displayCleared = true → s.runsInstr .cls) ∧
    (t.toneOn = true ↔
      s.params.timerIntervalNs < s.hostCall.now.toNat - s.lastTimerTick.toNat ∧ 1 < s.st.toNat)

/-- Only `CLS` and `DRW` change the framebuffer (R28, R50). -/
def Obligations.OnlyDrawAndClearChangeScreen : Prop :=
  ∀ s t : State, step s = .next t → t.fb ≠ s.fb → s.runsInstr .cls ∨ ∃ x y n, s.runsInstr (.drw x y n)

/-- Only `CALL` and `RET` touch the call stack (R25, R50). -/
def Obligations.OnlyCallAndReturnMoveStack : Prop :=
  ∀ s t : State, step s = .next t → (t.stack ≠ s.stack ∨ t.sp ≠ s.sp) →
    (∃ nnn, s.runsInstr (.call nnn)) ∨ (s.runsInstr .ret ∧ t.stack = s.stack)

/-! ## Keypad and timer transfers -/

/-- R202, `LD Vx, K`, on whatever `NextKeyPress()` answers, one look consuming one answer: a key press is stored, the
terminate signal halts the core and leaves `V[x]` alone (decision D23), and with no answer yet the core is blocked and
nothing in it changes (decision D24; how a blocked core is held is this model's, log entry 6). -/
def Obligations.KeyWaitStoresKeyHaltsOrBlocks : Prop :=
  ∀ (x : Reg) (s : State), s.ready →
    (∀ k, s.keyAnswer = .key k →
      ∃ t, exec (.ldKey x) s = .next t ∧ (t.readReg x).toNat = k.val ∧ t.ports = s.takeKeyAnswer.ports ∧
        Preserves { regs := fun r => r = x, ports := True } s t) ∧
    (s.keyAnswer = .terminate →
      ∃ t, exec (.ldKey x) s = .next t ∧ HaltsWith .terminated none s.takeKeyAnswer t ∧
        Preserves { halt := True, ports := True } s t) ∧
    (s.keyAnswer = .notYet →
      ∃ t, exec (.ldKey x) s = .next t ∧ t.waiting = some x ∧ t.ports = s.takeKeyAnswer.ports ∧
        Preserves { waiting := True, ports := True } s t) ∧
    (∀ a rest, s.ports.keyAnswers = a :: rest →
      s.keyAnswer = a ∧ s.takeKeyAnswer = { s with ports := { s.ports with keyAnswers := rest } }) ∧
    (s.ports.keyAnswers = [] →
      s.keyAnswer = Config.freeKeyAnswer s.ports.freeAnswers ∧
        s.takeKeyAnswer = { s with ports := { s.ports with freeAnswers := s.ports.freeAnswers + 1 } })

/-- A blocked core: no cycle runs, no host call is taken and nothing changes until `NextKeyPress()` answers; each look takes
one answer, and a key press completes the `LD Vx, K` and its cycle (R202, R243; decision D24, log entry 6). -/
def Obligations.BlockedCoreOnlyWaits : Prop :=
  ∀ (x : Reg) (s : State), s.waiting = some x → s.halted = false →
    (s.keyAnswer = .notYet →
      ∃ t, step s = .next t ∧ t.ports.calls = s.ports.calls ∧ t.ports.freeCalls = s.ports.freeCalls ∧
        t.ports = s.takeKeyAnswer.ports ∧ t.ports.status = s.ports.status ∧
        Preserves { ports := True } s t) ∧
    (∀ k, s.keyAnswer = .key k →
      ∃ t, step s = .next t ∧ (t.readReg x).toNat = k.val ∧ t.waiting = none ∧ t.ports.calls = s.ports.calls ∧
        t.ports.freeCalls = s.ports.freeCalls ∧ t.ports = { s.takeKeyAnswer.ports with status := some .running } ∧
        Preserves { regs := fun r => r = x, waiting := True, ports := True } s t) ∧
    (s.keyAnswer = .terminate →
      ∃ t, step s = .next t ∧ t.halted = true ∧ t.haltCause = .terminated ∧ t.ports.calls = s.ports.calls ∧
        t.ports.freeCalls = s.ports.freeCalls ∧
        t.ports = { s.takeKeyAnswer.ports with status := some (.fatal .terminated none) } ∧
        Preserves { halt := True, waiting := True, ports := True } s t)

/-- R203 to R205, the timer transfers; their directions are general-knowledge sentences of the spec, and that `LD ST`
raises no tone flag is decision D17. -/
def Obligations.TimerTransfersMoveOneByte : Prop :=
  ∀ (x : Reg) (s : State),
    (∃ t, exec (.ldFromDt x) s = .next t ∧ t.readReg x = s.dt ∧ Preserves { regs := fun r => r = x } s t) ∧
    (∃ t, exec (.ldDt x) s = .next t ∧ t.dt = s.readReg x ∧ Preserves { dt := True } s t) ∧
    (∃ t, exec (.ldSt x) s = .next t ∧ t.st = s.readReg x ∧ Preserves { st := True } s t)

/-- No instruction reads `ST`, the transient flags or the timing registers, nor the debug flag: two states that differ
in those alone go on to two states that differ in those alone (R27, R29, R30, R104, R251). -/
def Obligations.InstructionsDoNotReadTimeOrFlags : Prop :=
  let hide (s : State) : State :=
    { s with
      st := 0, displayDirty := false, displayCleared := false, toneOn := false, lastTimerTick := 0,
      lastInstrTime := 0, params := { s.params with debug := false } }
  ∀ (i : Instr) (s s' : State), hide s = hide s' →
    ∃ t t', exec i s = .next t ∧ exec i s' = .next t' ∧ hide t = hide t'

/-! ## Halting, invariants, reset -/

/-- Every step answers a next state, from a running, a blocked and a halted core (R252). Two clauses of this are the model's
choice. That a fatal condition, which R230 gives a halted state, leaves no step to fault is log entry 9. That a core blocked
in a key wait with no answer yet answers a next state is log entry 6: the spec enables no step there until a key or the
terminate signal comes (R202; decision D24, item U14), and the model's step is one look that finds nothing. -/
def Obligations.EveryStepAnswersNext : Prop :=
  ∀ s : State, ∃ t, step s = .next t

/-- The complete list of what halts the core inside an instruction, and each is precise: nothing but the halt registers
and the ports has changed (R220, R227, R230; decisions D6, D7, D22, D23). -/
def Obligations.OnlyListedConditionsHalt : Prop :=
  ∀ (i : Instr) (s t : State), s.ready → exec i s = .next t → t.halted = true →
    ((i = .ret ∧ t.haltCause = .stackUnderflow) ∨
      (∃ nnn, i = .call nnn ∧ t.haltCause = .stackOverflow) ∨
      (∃ x, i = .ldKey x ∧ t.haltCause = .terminated) ∨
      (((∃ x, i = .bcd x ∨ i = .storeRegs x ∨ i = .loadRegs x) ∨ ∃ x y n, i = .drw x y n) ∧
        t.haltCause = .memoryOutOfBounds)) ∧
    Preserves { halt := True, ports := True } s t

/-- R36 and the form of the memory: every step keeps the invariant, from every state that has it. -/
def Obligations.EveryStepKeepsInvariant : Prop :=
  ∀ s t : State, s.Inv → step s = .next t → t.Inv

/-- The invariant holds right after construction, whatever the parameters and the image, and at reset (R34, R36). -/
def Obligations.ConstructionEstablishesInvariant : Prop :=
  State.reset.Inv ∧ ∀ (p : Config.Params) (image : List Byte) (s : State), State.construct p image = some s → s.Inv

/-- The timing registers never decrease provided the host's `now` does not (R36, R102). -/
def Obligations.TimeNeverRunsBack : Prop :=
  ∀ s t : State, s.waiting = none → s.lastTimerTick ≤ s.hostCall.now → s.lastInstrTime ≤ s.hostCall.now →
    step s = .next t →
    s.lastTimerTick ≤ t.lastTimerTick ∧ s.lastInstrTime ≤ t.lastInstrTime ∧
      t.lastTimerTick ≤ s.hostCall.now ∧ t.lastInstrTime ≤ s.hostCall.now

/-- The construction parameters are "fixed for the life of the machine" (R6). -/
def Obligations.ParametersNeverChange : Prop :=
  ∀ s t : State, step s = .next t → t.params = s.params

/-- A cycle whose decay fires with no instruction step since the previous decay also opens its instruction gate when
the instruction interval is the shorter: the derived consequence of R104. -/
def Obligations.LateDecayOpensInstructionGate : Prop :=
  ∀ s : State, s.params.instrIntervalNs < s.params.timerIntervalNs → s.lastInstrTime ≤ s.lastTimerTick →
    s.timerGate s.hostCall.now = true → s.timed.instrGate s.hostCall.now = true

/-- R261, memory at reset: zero, then the glyph table at 0, then the program image at 0x200, verbatim. -/
def Obligations.MemoryAtReset : Prop :=
  ∀ (p : Config.Params) (image : List Byte) (s : State), State.construct p image = some s →
    ∀ a, a < 4096 →
      s.readByte a =
        if h : a < 80 then p.glyphs[a]
        else if 0x200 ≤ a ∧ a < 0x200 + image.length then image.getD (a - 0x200) 0 else 0

/-- R34 and R263: every register at the value of the reset table, which is this spec's decision D25 (D21 for the timing
registers, D22 for the halt state), and an image longer than 3584 bytes refused (D26). -/
def Obligations.RegistersAtReset : Prop :=
  ∀ (p : Config.Params) (image : List Byte),
    (image.length ≤ 3584 →
      ∃ s, State.construct p image = some s ∧
        (∀ r, s.readReg r = 0) ∧ s.i = 0 ∧ s.pc = 0x200 ∧ s.sp = 0 ∧ s.stack = List.replicate p.stackDepth 0 ∧
        s.dt = 0 ∧ s.st = 0 ∧ (∀ y x, s.fb.cell y x = false) ∧ s.displayDirty = false ∧ s.displayCleared = false ∧
        s.toneOn = false ∧ s.lastTimerTick = p.tReset ∧ s.lastInstrTime = p.tReset ∧ s.halted = false ∧
        s.haltCause = .none ∧ s.params = p) ∧
    (3584 < image.length → State.construct p image = none)

/-- The first cycle after construction, whatever the parameters and the program image: until `now` passes `T_RESET` by
more than the instruction interval no instruction is fetched, and until it passes it by more than the timer interval no
timer decays (the derived sentence of R265). And in every cycle of a ready core whose `PC` a word can be fetched at, each of
the two times becomes `now` exactly when its elapsed time exceeds its interval (R92, R93, R96; decisions D18, D19, D21). -/
def Obligations.NothingRunsBeforeTheFirstInterval : Prop :=
  (∀ (p : Config.Params) (image : List Byte) (built : State) (c : HostCall) (rest : List HostCall),
    State.construct p image = some built →
    let s : State := { built with ports := { built.ports with calls := c :: rest } }
    ∃ t, step s = .next t ∧
      (c.now.toNat ≤ p.tReset.toNat + p.instrIntervalNs →
        Preserves { dt := True, st := True, toneOn := True, lastTimerTick := True, ports := True } s t) ∧
      (c.now.toNat ≤ p.tReset.toNat + p.timerIntervalNs → t.lastTimerTick = p.tReset ∧ t.toneOn = false) ∧
      (p.tReset.toNat + p.instrIntervalNs < c.now.toNat → t.lastInstrTime = c.now) ∧
      (p.tReset.toNat + p.timerIntervalNs < c.now.toNat → t.lastTimerTick = c.now)) ∧
  (∀ s : State, s.ready → s.pc.toNat ≤ 4094 →
    ∃ t, step s = .next t ∧
      t.lastInstrTime =
        (if s.params.instrIntervalNs < s.hostCall.now.toNat - s.lastInstrTime.toNat then s.hostCall.now
          else s.lastInstrTime) ∧
      t.lastTimerTick =
        (if s.params.timerIntervalNs < s.hostCall.now.toNat - s.lastTimerTick.toNat then s.hostCall.now
          else s.lastTimerTick))

/-- What a cycle of a ready core exchanges with the host (R100, R227, R245): it takes exactly one call; it draws from the
random source only to run `RND` and looks for a key only to run `LD Vx, K`; it returns `Running` when the core goes on,
`Fatal` with the cause and the recorded value of R227 in the cycle that halts it, and nothing while a key wait is blocked;
and it emits a diagnostic only for a fetched word that does not decode (decisions D22 to D24, D27; that these values stand in
the ports is this model's choice, log entries 4 to 6). -/
def Obligations.CycleExchangesPortValues : Prop :=
  ∀ s : State, s.ready →
    ∃ t, step s = .next t ∧ CallTaken s t ∧
      ((∀ x nn, ¬ s.runsInstr (.rnd x nn)) → DrawsKept s t) ∧
      ((∀ x, ¬ s.runsInstr (.ldKey x)) → AnswersKept s t) ∧
      (t.halted = false → t.waiting = none → t.ports.status = some .running) ∧
      (t.halted = true → t.haltCause ≠ .none ∧ t.ports.status = some (.fatal t.haltCause t.recordedValue)) ∧
      (t.waiting ≠ none → t.halted = false ∧ t.ports.status = none) ∧
      (∀ i, s.runsInstr i → t.ports.diagnostic = none) ∧
      (t.ports.diagnostic ≠ none → s.fetches ∧ ∃ e, decodeWord s.timed.fetchWord = .error e)
end

