-- ==== Sys2Proof/Laws/State.lean ====
section
/-! SUPPORT. What each named update does to each field of the state: one lemma a field and update, so that no later
proof unfolds a record update. -/

namespace Sys2Proof.Machine

variable (s : State)

/-! ### `State.writeReg` -/

@[simp] theorem State.writeReg_v (x : Reg) (b : Byte) : (s.writeReg x b).v = s.v.set x.val b x.isLt := rfl
@[simp] theorem State.writeReg_i (x : Reg) (b : Byte) : (s.writeReg x b).i = s.i := rfl
@[simp] theorem State.writeReg_pc (x : Reg) (b : Byte) : (s.writeReg x b).pc = s.pc := rfl
@[simp] theorem State.writeReg_sp (x : Reg) (b : Byte) : (s.writeReg x b).sp = s.sp := rfl
@[simp] theorem State.writeReg_stack (x : Reg) (b : Byte) : (s.writeReg x b).stack = s.stack := rfl
@[simp] theorem State.writeReg_dt (x : Reg) (b : Byte) : (s.writeReg x b).dt = s.dt := rfl
@[simp] theorem State.writeReg_st (x : Reg) (b : Byte) : (s.writeReg x b).st = s.st := rfl
@[simp] theorem State.writeReg_fb (x : Reg) (b : Byte) : (s.writeReg x b).fb = s.fb := rfl
@[simp] theorem State.writeReg_displayDirty (x : Reg) (b : Byte) :
    (s.writeReg x b).displayDirty = s.displayDirty := rfl
@[simp] theorem State.writeReg_displayCleared (x : Reg) (b : Byte) :
    (s.writeReg x b).displayCleared = s.displayCleared := rfl
@[simp] theorem State.writeReg_toneOn (x : Reg) (b : Byte) : (s.writeReg x b).toneOn = s.toneOn := rfl
@[simp] theorem State.writeReg_lastTimerTick (x : Reg) (b : Byte) :
    (s.writeReg x b).lastTimerTick = s.lastTimerTick := rfl
@[simp] theorem State.writeReg_lastInstrTime (x : Reg) (b : Byte) :
    (s.writeReg x b).lastInstrTime = s.lastInstrTime := rfl
@[simp] theorem State.writeReg_halted (x : Reg) (b : Byte) : (s.writeReg x b).halted = s.halted := rfl
@[simp] theorem State.writeReg_haltCause (x : Reg) (b : Byte) : (s.writeReg x b).haltCause = s.haltCause := rfl
@[simp] theorem State.writeReg_waiting (x : Reg) (b : Byte) : (s.writeReg x b).waiting = s.waiting := rfl
@[simp] theorem State.writeReg_mem (x : Reg) (b : Byte) : (s.writeReg x b).mem = s.mem := rfl
@[simp] theorem State.writeReg_params (x : Reg) (b : Byte) : (s.writeReg x b).params = s.params := rfl
@[simp] theorem State.writeReg_ports (x : Reg) (b : Byte) : (s.writeReg x b).ports = s.ports := rfl

/-! ### `State.setI` -/

@[simp] theorem State.setI_v (a : Word) : (s.setI a).v = s.v := rfl
@[simp] theorem State.setI_i (a : Word) : (s.setI a).i = a := rfl
@[simp] theorem State.setI_pc (a : Word) : (s.setI a).pc = s.pc := rfl
@[simp] theorem State.setI_sp (a : Word) : (s.setI a).sp = s.sp := rfl
@[simp] theorem State.setI_stack (a : Word) : (s.setI a).stack = s.stack := rfl
@[simp] theorem State.setI_dt (a : Word) : (s.setI a).dt = s.dt := rfl
@[simp] theorem State.setI_st (a : Word) : (s.setI a).st = s.st := rfl
@[simp] theorem State.setI_fb (a : Word) : (s.setI a).fb = s.fb := rfl
@[simp] theorem State.setI_displayDirty (a : Word) : (s.setI a).displayDirty = s.displayDirty := rfl
@[simp] theorem State.setI_displayCleared (a : Word) : (s.setI a).displayCleared = s.displayCleared := rfl
@[simp] theorem State.setI_toneOn (a : Word) : (s.setI a).toneOn = s.toneOn := rfl
@[simp] theorem State.setI_lastTimerTick (a : Word) : (s.setI a).lastTimerTick = s.lastTimerTick := rfl
@[simp] theorem State.setI_lastInstrTime (a : Word) : (s.setI a).lastInstrTime = s.lastInstrTime := rfl
@[simp] theorem State.setI_halted (a : Word) : (s.setI a).halted = s.halted := rfl
@[simp] theorem State.setI_haltCause (a : Word) : (s.setI a).haltCause = s.haltCause := rfl
@[simp] theorem State.setI_waiting (a : Word) : (s.setI a).waiting = s.waiting := rfl
@[simp] theorem State.setI_mem (a : Word) : (s.setI a).mem = s.mem := rfl
@[simp] theorem State.setI_params (a : Word) : (s.setI a).params = s.params := rfl
@[simp] theorem State.setI_ports (a : Word) : (s.setI a).ports = s.ports := rfl

/-! ### `State.setPc` -/

@[simp] theorem State.setPc_v (a : Word) : (s.setPc a).v = s.v := rfl
@[simp] theorem State.setPc_i (a : Word) : (s.setPc a).i = s.i := rfl
@[simp] theorem State.setPc_pc (a : Word) : (s.setPc a).pc = a := rfl
@[simp] theorem State.setPc_sp (a : Word) : (s.setPc a).sp = s.sp := rfl
@[simp] theorem State.setPc_stack (a : Word) : (s.setPc a).stack = s.stack := rfl
@[simp] theorem State.setPc_dt (a : Word) : (s.setPc a).dt = s.dt := rfl
@[simp] theorem State.setPc_st (a : Word) : (s.setPc a).st = s.st := rfl
@[simp] theorem State.setPc_fb (a : Word) : (s.setPc a).fb = s.fb := rfl
@[simp] theorem State.setPc_displayDirty (a : Word) : (s.setPc a).displayDirty = s.displayDirty := rfl
@[simp] theorem State.setPc_displayCleared (a : Word) : (s.setPc a).displayCleared = s.displayCleared := rfl
@[simp] theorem State.setPc_toneOn (a : Word) : (s.setPc a).toneOn = s.toneOn := rfl
@[simp] theorem State.setPc_lastTimerTick (a : Word) : (s.setPc a).lastTimerTick = s.lastTimerTick := rfl
@[simp] theorem State.setPc_lastInstrTime (a : Word) : (s.setPc a).lastInstrTime = s.lastInstrTime := rfl
@[simp] theorem State.setPc_halted (a : Word) : (s.setPc a).halted = s.halted := rfl
@[simp] theorem State.setPc_haltCause (a : Word) : (s.setPc a).haltCause = s.haltCause := rfl
@[simp] theorem State.setPc_waiting (a : Word) : (s.setPc a).waiting = s.waiting := rfl
@[simp] theorem State.setPc_mem (a : Word) : (s.setPc a).mem = s.mem := rfl
@[simp] theorem State.setPc_params (a : Word) : (s.setPc a).params = s.params := rfl
@[simp] theorem State.setPc_ports (a : Word) : (s.setPc a).ports = s.ports := rfl

/-! ### `State.writeByte` -/

@[simp] theorem State.writeByte_v (a : Nat) (b : Byte) : (s.writeByte a b).v = s.v := rfl
@[simp] theorem State.writeByte_i (a : Nat) (b : Byte) : (s.writeByte a b).i = s.i := rfl
@[simp] theorem State.writeByte_pc (a : Nat) (b : Byte) : (s.writeByte a b).pc = s.pc := rfl
@[simp] theorem State.writeByte_sp (a : Nat) (b : Byte) : (s.writeByte a b).sp = s.sp := rfl
@[simp] theorem State.writeByte_stack (a : Nat) (b : Byte) : (s.writeByte a b).stack = s.stack := rfl
@[simp] theorem State.writeByte_dt (a : Nat) (b : Byte) : (s.writeByte a b).dt = s.dt := rfl
@[simp] theorem State.writeByte_st (a : Nat) (b : Byte) : (s.writeByte a b).st = s.st := rfl
@[simp] theorem State.writeByte_fb (a : Nat) (b : Byte) : (s.writeByte a b).fb = s.fb := rfl
@[simp] theorem State.writeByte_displayDirty (a : Nat) (b : Byte) :
    (s.writeByte a b).displayDirty = s.displayDirty := rfl
@[simp] theorem State.writeByte_displayCleared (a : Nat) (b : Byte) :
    (s.writeByte a b).displayCleared = s.displayCleared := rfl
@[simp] theorem State.writeByte_toneOn (a : Nat) (b : Byte) : (s.writeByte a b).toneOn = s.toneOn := rfl
@[simp] theorem State.writeByte_lastTimerTick (a : Nat) (b : Byte) :
    (s.writeByte a b).lastTimerTick = s.lastTimerTick := rfl
@[simp] theorem State.writeByte_lastInstrTime (a : Nat) (b : Byte) :
    (s.writeByte a b).lastInstrTime = s.lastInstrTime := rfl
@[simp] theorem State.writeByte_halted (a : Nat) (b : Byte) : (s.writeByte a b).halted = s.halted := rfl
@[simp] theorem State.writeByte_haltCause (a : Nat) (b : Byte) : (s.writeByte a b).haltCause = s.haltCause := rfl
@[simp] theorem State.writeByte_waiting (a : Nat) (b : Byte) : (s.writeByte a b).waiting = s.waiting := rfl
@[simp] theorem State.writeByte_mem (a : Nat) (b : Byte) :
    (s.writeByte a b).mem = Memory.write s.params.glyphs s.mem a b := rfl
@[simp] theorem State.writeByte_params (a : Nat) (b : Byte) : (s.writeByte a b).params = s.params := rfl
@[simp] theorem State.writeByte_ports (a : Nat) (b : Byte) : (s.writeByte a b).ports = s.ports := rfl

/-! ### `State.raise` -/

@[simp] theorem State.raise_v (c : HaltCause) (n : Option Nat) : (s.raise c n).v = s.v := rfl
@[simp] theorem State.raise_i (c : HaltCause) (n : Option Nat) : (s.raise c n).i = s.i := rfl
@[simp] theorem State.raise_pc (c : HaltCause) (n : Option Nat) : (s.raise c n).pc = s.pc := rfl
@[simp] theorem State.raise_sp (c : HaltCause) (n : Option Nat) : (s.raise c n).sp = s.sp := rfl
@[simp] theorem State.raise_stack (c : HaltCause) (n : Option Nat) : (s.raise c n).stack = s.stack := rfl
@[simp] theorem State.raise_dt (c : HaltCause) (n : Option Nat) : (s.raise c n).dt = s.dt := rfl
@[simp] theorem State.raise_st (c : HaltCause) (n : Option Nat) : (s.raise c n).st = s.st := rfl
@[simp] theorem State.raise_fb (c : HaltCause) (n : Option Nat) : (s.raise c n).fb = s.fb := rfl
@[simp] theorem State.raise_displayDirty (c : HaltCause) (n : Option Nat) :
    (s.raise c n).displayDirty = s.displayDirty := rfl
@[simp] theorem State.raise_displayCleared (c : HaltCause) (n : Option Nat) :
    (s.raise c n).displayCleared = s.displayCleared := rfl
@[simp] theorem State.raise_toneOn (c : HaltCause) (n : Option Nat) : (s.raise c n).toneOn = s.toneOn := rfl
@[simp] theorem State.raise_lastTimerTick (c : HaltCause) (n : Option Nat) :
    (s.raise c n).lastTimerTick = s.lastTimerTick := rfl
@[simp] theorem State.raise_lastInstrTime (c : HaltCause) (n : Option Nat) :
    (s.raise c n).lastInstrTime = s.lastInstrTime := rfl
@[simp] theorem State.raise_halted (c : HaltCause) (n : Option Nat) : (s.raise c n).halted = true := rfl
@[simp] theorem State.raise_haltCause (c : HaltCause) (n : Option Nat) : (s.raise c n).haltCause = c := rfl
@[simp] theorem State.raise_waiting (c : HaltCause) (n : Option Nat) : (s.raise c n).waiting = s.waiting := rfl
@[simp] theorem State.raise_mem (c : HaltCause) (n : Option Nat) : (s.raise c n).mem = s.mem := rfl
@[simp] theorem State.raise_params (c : HaltCause) (n : Option Nat) : (s.raise c n).params = s.params := rfl
@[simp] theorem State.raise_ports (c : HaltCause) (n : Option Nat) :
    (s.raise c n).ports = { s.ports with status := some (.fatal c n) } := rfl

/-! ### `State.raiseMemory` -/

@[simp] theorem State.raiseMemory_v : s.raiseMemory.v = s.v := rfl
@[simp] theorem State.raiseMemory_i : s.raiseMemory.i = s.i := rfl
@[simp] theorem State.raiseMemory_pc : s.raiseMemory.pc = s.pc := rfl
@[simp] theorem State.raiseMemory_sp : s.raiseMemory.sp = s.sp := rfl
@[simp] theorem State.raiseMemory_stack : s.raiseMemory.stack = s.stack := rfl
@[simp] theorem State.raiseMemory_dt : s.raiseMemory.dt = s.dt := rfl
@[simp] theorem State.raiseMemory_st : s.raiseMemory.st = s.st := rfl
@[simp] theorem State.raiseMemory_fb : s.raiseMemory.fb = s.fb := rfl
@[simp] theorem State.raiseMemory_displayDirty : s.raiseMemory.displayDirty = s.displayDirty := rfl
@[simp] theorem State.raiseMemory_displayCleared : s.raiseMemory.displayCleared = s.displayCleared := rfl
@[simp] theorem State.raiseMemory_toneOn : s.raiseMemory.toneOn = s.toneOn := rfl
@[simp] theorem State.raiseMemory_lastTimerTick : s.raiseMemory.lastTimerTick = s.lastTimerTick := rfl
@[simp] theorem State.raiseMemory_lastInstrTime : s.raiseMemory.lastInstrTime = s.lastInstrTime := rfl
@[simp] theorem State.raiseMemory_halted : s.raiseMemory.halted = true := rfl
@[simp] theorem State.raiseMemory_haltCause : s.raiseMemory.haltCause = .memoryOutOfBounds := rfl
@[simp] theorem State.raiseMemory_waiting : s.raiseMemory.waiting = s.waiting := rfl
@[simp] theorem State.raiseMemory_mem : s.raiseMemory.mem = s.mem := rfl
@[simp] theorem State.raiseMemory_params : s.raiseMemory.params = s.params := rfl
@[simp] theorem State.raiseMemory_ports :
    s.raiseMemory.ports = { s.ports with status := some (.fatal .memoryOutOfBounds (some (max s.i.toNat Config.memSize))) } := rfl

/-! ### `State.pushPc` -/

@[simp] theorem State.pushPc_v : s.pushPc.v = s.v := rfl
@[simp] theorem State.pushPc_i : s.pushPc.i = s.i := rfl
@[simp] theorem State.pushPc_pc : s.pushPc.pc = s.pc := rfl
@[simp] theorem State.pushPc_sp : s.pushPc.sp = s.sp + 1 := rfl
@[simp] theorem State.pushPc_stack : s.pushPc.stack = s.stack.set s.sp s.pc := rfl
@[simp] theorem State.pushPc_dt : s.pushPc.dt = s.dt := rfl
@[simp] theorem State.pushPc_st : s.pushPc.st = s.st := rfl
@[simp] theorem State.pushPc_fb : s.pushPc.fb = s.fb := rfl
@[simp] theorem State.pushPc_displayDirty : s.pushPc.displayDirty = s.displayDirty := rfl
@[simp] theorem State.pushPc_displayCleared : s.pushPc.displayCleared = s.displayCleared := rfl
@[simp] theorem State.pushPc_toneOn : s.pushPc.toneOn = s.toneOn := rfl
@[simp] theorem State.pushPc_lastTimerTick : s.pushPc.lastTimerTick = s.lastTimerTick := rfl
@[simp] theorem State.pushPc_lastInstrTime : s.pushPc.lastInstrTime = s.lastInstrTime := rfl
@[simp] theorem State.pushPc_halted : s.pushPc.halted = s.halted := rfl
@[simp] theorem State.pushPc_haltCause : s.pushPc.haltCause = s.haltCause := rfl
@[simp] theorem State.pushPc_waiting : s.pushPc.waiting = s.waiting := rfl
@[simp] theorem State.pushPc_mem : s.pushPc.mem = s.mem := rfl
@[simp] theorem State.pushPc_params : s.pushPc.params = s.params := rfl
@[simp] theorem State.pushPc_ports : s.pushPc.ports = s.ports := rfl

/-! ### `State.popPc` -/

@[simp] theorem State.popPc_v : s.popPc.v = s.v := rfl
@[simp] theorem State.popPc_i : s.popPc.i = s.i := rfl
@[simp] theorem State.popPc_pc : s.popPc.pc = s.stack.getD (s.sp - 1) 0 := rfl
@[simp] theorem State.popPc_sp : s.popPc.sp = s.sp - 1 := rfl
@[simp] theorem State.popPc_stack : s.popPc.stack = s.stack := rfl
@[simp] theorem State.popPc_dt : s.popPc.dt = s.dt := rfl
@[simp] theorem State.popPc_st : s.popPc.st = s.st := rfl
@[simp] theorem State.popPc_fb : s.popPc.fb = s.fb := rfl
@[simp] theorem State.popPc_displayDirty : s.popPc.displayDirty = s.displayDirty := rfl
@[simp] theorem State.popPc_displayCleared : s.popPc.displayCleared = s.displayCleared := rfl
@[simp] theorem State.popPc_toneOn : s.popPc.toneOn = s.toneOn := rfl
@[simp] theorem State.popPc_lastTimerTick : s.popPc.lastTimerTick = s.lastTimerTick := rfl
@[simp] theorem State.popPc_lastInstrTime : s.popPc.lastInstrTime = s.lastInstrTime := rfl
@[simp] theorem State.popPc_halted : s.popPc.halted = s.halted := rfl
@[simp] theorem State.popPc_haltCause : s.popPc.haltCause = s.haltCause := rfl
@[simp] theorem State.popPc_waiting : s.popPc.waiting = s.waiting := rfl
@[simp] theorem State.popPc_mem : s.popPc.mem = s.mem := rfl
@[simp] theorem State.popPc_params : s.popPc.params = s.params := rfl
@[simp] theorem State.popPc_ports : s.popPc.ports = s.ports := rfl

/-! ### `State.setFb` -/

@[simp] theorem State.setFb_v (f : Framebuffer) : (s.setFb f).v = s.v := rfl
@[simp] theorem State.setFb_i (f : Framebuffer) : (s.setFb f).i = s.i := rfl
@[simp] theorem State.setFb_pc (f : Framebuffer) : (s.setFb f).pc = s.pc := rfl
@[simp] theorem State.setFb_sp (f : Framebuffer) : (s.setFb f).sp = s.sp := rfl
@[simp] theorem State.setFb_stack (f : Framebuffer) : (s.setFb f).stack = s.stack := rfl
@[simp] theorem State.setFb_dt (f : Framebuffer) : (s.setFb f).dt = s.dt := rfl
@[simp] theorem State.setFb_st (f : Framebuffer) : (s.setFb f).st = s.st := rfl
@[simp] theorem State.setFb_fb (f : Framebuffer) : (s.setFb f).fb = f := rfl
@[simp] theorem State.setFb_displayDirty (f : Framebuffer) : (s.setFb f).displayDirty = s.displayDirty := rfl
@[simp] theorem State.setFb_displayCleared (f : Framebuffer) : (s.setFb f).displayCleared = s.displayCleared := rfl
@[simp] theorem State.setFb_toneOn (f : Framebuffer) : (s.setFb f).toneOn = s.toneOn := rfl
@[simp] theorem State.setFb_lastTimerTick (f : Framebuffer) : (s.setFb f).lastTimerTick = s.lastTimerTick := rfl
@[simp] theorem State.setFb_lastInstrTime (f : Framebuffer) : (s.setFb f).lastInstrTime = s.lastInstrTime := rfl
@[simp] theorem State.setFb_halted (f : Framebuffer) : (s.setFb f).halted = s.halted := rfl
@[simp] theorem State.setFb_haltCause (f : Framebuffer) : (s.setFb f).haltCause = s.haltCause := rfl
@[simp] theorem State.setFb_waiting (f : Framebuffer) : (s.setFb f).waiting = s.waiting := rfl
@[simp] theorem State.setFb_mem (f : Framebuffer) : (s.setFb f).mem = s.mem := rfl
@[simp] theorem State.setFb_params (f : Framebuffer) : (s.setFb f).params = s.params := rfl
@[simp] theorem State.setFb_ports (f : Framebuffer) : (s.setFb f).ports = s.ports := rfl

/-! ### `State.timerDecay` -/

@[simp] theorem State.timerDecay_v : s.timerDecay.v = s.v := rfl
@[simp] theorem State.timerDecay_i : s.timerDecay.i = s.i := rfl
@[simp] theorem State.timerDecay_pc : s.timerDecay.pc = s.pc := rfl
@[simp] theorem State.timerDecay_sp : s.timerDecay.sp = s.sp := rfl
@[simp] theorem State.timerDecay_stack : s.timerDecay.stack = s.stack := rfl
@[simp] theorem State.timerDecay_dt : s.timerDecay.dt = decayed s.dt := rfl
@[simp] theorem State.timerDecay_st : s.timerDecay.st = decayed s.st := rfl
@[simp] theorem State.timerDecay_fb : s.timerDecay.fb = s.fb := rfl
@[simp] theorem State.timerDecay_displayDirty : s.timerDecay.displayDirty = s.displayDirty := rfl
@[simp] theorem State.timerDecay_displayCleared : s.timerDecay.displayCleared = s.displayCleared := rfl
@[simp] theorem State.timerDecay_toneOn : s.timerDecay.toneOn = decide (0 < (decayed s.st).toNat) := rfl
@[simp] theorem State.timerDecay_lastTimerTick : s.timerDecay.lastTimerTick = s.lastTimerTick := rfl
@[simp] theorem State.timerDecay_lastInstrTime : s.timerDecay.lastInstrTime = s.lastInstrTime := rfl
@[simp] theorem State.timerDecay_halted : s.timerDecay.halted = s.halted := rfl
@[simp] theorem State.timerDecay_haltCause : s.timerDecay.haltCause = s.haltCause := rfl
@[simp] theorem State.timerDecay_waiting : s.timerDecay.waiting = s.waiting := rfl
@[simp] theorem State.timerDecay_mem : s.timerDecay.mem = s.mem := rfl
@[simp] theorem State.timerDecay_params : s.timerDecay.params = s.params := rfl
@[simp] theorem State.timerDecay_ports : s.timerDecay.ports = s.ports := rfl

/-! ### `State.emitDecodeMiss` -/

@[simp] theorem State.emitDecodeMiss_v (w a : Word) : (s.emitDecodeMiss w a).v = s.v := rfl
@[simp] theorem State.emitDecodeMiss_i (w a : Word) : (s.emitDecodeMiss w a).i = s.i := rfl
@[simp] theorem State.emitDecodeMiss_pc (w a : Word) : (s.emitDecodeMiss w a).pc = s.pc := rfl
@[simp] theorem State.emitDecodeMiss_sp (w a : Word) : (s.emitDecodeMiss w a).sp = s.sp := rfl
@[simp] theorem State.emitDecodeMiss_stack (w a : Word) : (s.emitDecodeMiss w a).stack = s.stack := rfl
@[simp] theorem State.emitDecodeMiss_dt (w a : Word) : (s.emitDecodeMiss w a).dt = s.dt := rfl
@[simp] theorem State.emitDecodeMiss_st (w a : Word) : (s.emitDecodeMiss w a).st = s.st := rfl
@[simp] theorem State.emitDecodeMiss_fb (w a : Word) : (s.emitDecodeMiss w a).fb = s.fb := rfl
@[simp] theorem State.emitDecodeMiss_displayDirty (w a : Word) :
    (s.emitDecodeMiss w a).displayDirty = s.displayDirty := rfl
@[simp] theorem State.emitDecodeMiss_displayCleared (w a : Word) :
    (s.emitDecodeMiss w a).displayCleared = s.displayCleared := rfl
@[simp] theorem State.emitDecodeMiss_toneOn (w a : Word) : (s.emitDecodeMiss w a).toneOn = s.toneOn := rfl
@[simp] theorem State.emitDecodeMiss_lastTimerTick (w a : Word) :
    (s.emitDecodeMiss w a).lastTimerTick = s.lastTimerTick := rfl
@[simp] theorem State.emitDecodeMiss_lastInstrTime (w a : Word) :
    (s.emitDecodeMiss w a).lastInstrTime = s.lastInstrTime := rfl
@[simp] theorem State.emitDecodeMiss_halted (w a : Word) : (s.emitDecodeMiss w a).halted = s.halted := rfl
@[simp] theorem State.emitDecodeMiss_haltCause (w a : Word) : (s.emitDecodeMiss w a).haltCause = s.haltCause := rfl
@[simp] theorem State.emitDecodeMiss_waiting (w a : Word) : (s.emitDecodeMiss w a).waiting = s.waiting := rfl
@[simp] theorem State.emitDecodeMiss_mem (w a : Word) : (s.emitDecodeMiss w a).mem = s.mem := rfl
@[simp] theorem State.emitDecodeMiss_params (w a : Word) : (s.emitDecodeMiss w a).params = s.params := rfl
@[simp] theorem State.emitDecodeMiss_ports (w a : Word) :
    (s.emitDecodeMiss w a).ports = { s.ports with diagnostic := some ⟨w, a⟩ } := rfl

/-! ### `State.advance` -/

@[simp] theorem State.advance_v (t : Time) : (s.advance t).v = s.v := rfl
@[simp] theorem State.advance_i (t : Time) : (s.advance t).i = s.i := rfl
@[simp] theorem State.advance_pc (t : Time) : (s.advance t).pc = s.pc + 2 := rfl
@[simp] theorem State.advance_sp (t : Time) : (s.advance t).sp = s.sp := rfl
@[simp] theorem State.advance_stack (t : Time) : (s.advance t).stack = s.stack := rfl
@[simp] theorem State.advance_dt (t : Time) : (s.advance t).dt = s.dt := rfl
@[simp] theorem State.advance_st (t : Time) : (s.advance t).st = s.st := rfl
@[simp] theorem State.advance_fb (t : Time) : (s.advance t).fb = s.fb := rfl
@[simp] theorem State.advance_displayDirty (t : Time) : (s.advance t).displayDirty = s.displayDirty := rfl
@[simp] theorem State.advance_displayCleared (t : Time) : (s.advance t).displayCleared = s.displayCleared := rfl
@[simp] theorem State.advance_toneOn (t : Time) : (s.advance t).toneOn = s.toneOn := rfl
@[simp] theorem State.advance_lastTimerTick (t : Time) : (s.advance t).lastTimerTick = s.lastTimerTick := rfl
@[simp] theorem State.advance_lastInstrTime (t : Time) : (s.advance t).lastInstrTime = t := rfl
@[simp] theorem State.advance_halted (t : Time) : (s.advance t).halted = s.halted := rfl
@[simp] theorem State.advance_haltCause (t : Time) : (s.advance t).haltCause = s.haltCause := rfl
@[simp] theorem State.advance_waiting (t : Time) : (s.advance t).waiting = s.waiting := rfl
@[simp] theorem State.advance_mem (t : Time) : (s.advance t).mem = s.mem := rfl
@[simp] theorem State.advance_params (t : Time) : (s.advance t).params = s.params := rfl
@[simp] theorem State.advance_ports (t : Time) : (s.advance t).ports = s.ports := rfl

/-! ### `State.beginCycle` -/

@[simp] theorem State.beginCycle_v (k : Word) : (s.beginCycle k).v = s.v := rfl
@[simp] theorem State.beginCycle_i (k : Word) : (s.beginCycle k).i = s.i := rfl
@[simp] theorem State.beginCycle_pc (k : Word) : (s.beginCycle k).pc = s.pc := rfl
@[simp] theorem State.beginCycle_sp (k : Word) : (s.beginCycle k).sp = s.sp := rfl
@[simp] theorem State.beginCycle_stack (k : Word) : (s.beginCycle k).stack = s.stack := rfl
@[simp] theorem State.beginCycle_dt (k : Word) : (s.beginCycle k).dt = s.dt := rfl
@[simp] theorem State.beginCycle_st (k : Word) : (s.beginCycle k).st = s.st := rfl
@[simp] theorem State.beginCycle_fb (k : Word) : (s.beginCycle k).fb = s.fb := rfl
@[simp] theorem State.beginCycle_displayDirty (k : Word) : (s.beginCycle k).displayDirty = false := rfl
@[simp] theorem State.beginCycle_displayCleared (k : Word) : (s.beginCycle k).displayCleared = false := rfl
@[simp] theorem State.beginCycle_toneOn (k : Word) : (s.beginCycle k).toneOn = false := rfl
@[simp] theorem State.beginCycle_lastTimerTick (k : Word) : (s.beginCycle k).lastTimerTick = s.lastTimerTick := rfl
@[simp] theorem State.beginCycle_lastInstrTime (k : Word) : (s.beginCycle k).lastInstrTime = s.lastInstrTime := rfl
@[simp] theorem State.beginCycle_halted (k : Word) : (s.beginCycle k).halted = s.halted := rfl
@[simp] theorem State.beginCycle_haltCause (k : Word) : (s.beginCycle k).haltCause = s.haltCause := rfl
@[simp] theorem State.beginCycle_waiting (k : Word) : (s.beginCycle k).waiting = s.waiting := rfl
@[simp] theorem State.beginCycle_mem (k : Word) : (s.beginCycle k).mem = s.mem := rfl
@[simp] theorem State.beginCycle_params (k : Word) : (s.beginCycle k).params = s.params := rfl
@[simp] theorem State.beginCycle_ports (k : Word) :
    (s.beginCycle k).ports = { s.ports with keys := k, status := none, diagnostic := none } := rfl

/-! ### `State.haltedCycle` -/

@[simp] theorem State.haltedCycle_v : s.haltedCycle.v = s.v := rfl
@[simp] theorem State.haltedCycle_i : s.haltedCycle.i = s.i := rfl
@[simp] theorem State.haltedCycle_pc : s.haltedCycle.pc = s.pc := rfl
@[simp] theorem State.haltedCycle_sp : s.haltedCycle.sp = s.sp := rfl
@[simp] theorem State.haltedCycle_stack : s.haltedCycle.stack = s.stack := rfl
@[simp] theorem State.haltedCycle_dt : s.haltedCycle.dt = s.dt := rfl
@[simp] theorem State.haltedCycle_st : s.haltedCycle.st = s.st := rfl
@[simp] theorem State.haltedCycle_fb : s.haltedCycle.fb = s.fb := rfl
@[simp] theorem State.haltedCycle_displayDirty : s.haltedCycle.displayDirty = s.displayDirty := rfl
@[simp] theorem State.haltedCycle_displayCleared : s.haltedCycle.displayCleared = s.displayCleared := rfl
@[simp] theorem State.haltedCycle_toneOn : s.haltedCycle.toneOn = s.toneOn := rfl
@[simp] theorem State.haltedCycle_lastTimerTick : s.haltedCycle.lastTimerTick = s.lastTimerTick := rfl
@[simp] theorem State.haltedCycle_lastInstrTime : s.haltedCycle.lastInstrTime = s.lastInstrTime := rfl
@[simp] theorem State.haltedCycle_halted : s.haltedCycle.halted = s.halted := rfl
@[simp] theorem State.haltedCycle_haltCause : s.haltedCycle.haltCause = s.haltCause := rfl
@[simp] theorem State.haltedCycle_waiting : s.haltedCycle.waiting = s.waiting := rfl
@[simp] theorem State.haltedCycle_mem : s.haltedCycle.mem = s.mem := rfl
@[simp] theorem State.haltedCycle_params : s.haltedCycle.params = s.params := rfl
@[simp] theorem State.haltedCycle_ports :
    s.haltedCycle.ports = { s.ports with status := some (.fatal s.haltCause none), diagnostic := none } := rfl

/-! ### `State.writeResultThenFlag` -/

@[simp] theorem State.writeResultThenFlag_i (x : Reg) (b : Byte) (f : Bool) :
    (s.writeResultThenFlag x b f).i = s.i := rfl
@[simp] theorem State.writeResultThenFlag_pc (x : Reg) (b : Byte) (f : Bool) :
    (s.writeResultThenFlag x b f).pc = s.pc := rfl
@[simp] theorem State.writeResultThenFlag_sp (x : Reg) (b : Byte) (f : Bool) :
    (s.writeResultThenFlag x b f).sp = s.sp := rfl
@[simp] theorem State.writeResultThenFlag_stack (x : Reg) (b : Byte) (f : Bool) :
    (s.writeResultThenFlag x b f).stack = s.stack := rfl
@[simp] theorem State.writeResultThenFlag_dt (x : Reg) (b : Byte) (f : Bool) :
    (s.writeResultThenFlag x b f).dt = s.dt := rfl
@[simp] theorem State.writeResultThenFlag_st (x : Reg) (b : Byte) (f : Bool) :
    (s.writeResultThenFlag x b f).st = s.st := rfl
@[simp] theorem State.writeResultThenFlag_fb (x : Reg) (b : Byte) (f : Bool) :
    (s.writeResultThenFlag x b f).fb = s.fb := rfl
@[simp] theorem State.writeResultThenFlag_displayDirty (x : Reg) (b : Byte) (f : Bool) :
    (s.writeResultThenFlag x b f).displayDirty = s.displayDirty := rfl
@[simp] theorem State.writeResultThenFlag_displayCleared (x : Reg) (b : Byte) (f : Bool) :
    (s.writeResultThenFlag x b f).displayCleared = s.displayCleared := rfl
@[simp] theorem State.writeResultThenFlag_toneOn (x : Reg) (b : Byte) (f : Bool) :
    (s.writeResultThenFlag x b f).toneOn = s.toneOn := rfl
@[simp] theorem State.writeResultThenFlag_lastTimerTick (x : Reg) (b : Byte) (f : Bool) :
    (s.writeResultThenFlag x b f).lastTimerTick = s.lastTimerTick := rfl
@[simp] theorem State.writeResultThenFlag_lastInstrTime (x : Reg) (b : Byte) (f : Bool) :
    (s.writeResultThenFlag x b f).lastInstrTime = s.lastInstrTime := rfl
@[simp] theorem State.writeResultThenFlag_halted (x : Reg) (b : Byte) (f : Bool) :
    (s.writeResultThenFlag x b f).halted = s.halted := rfl
@[simp] theorem State.writeResultThenFlag_haltCause (x : Reg) (b : Byte) (f : Bool) :
    (s.writeResultThenFlag x b f).haltCause = s.haltCause := rfl
@[simp] theorem State.writeResultThenFlag_waiting (x : Reg) (b : Byte) (f : Bool) :
    (s.writeResultThenFlag x b f).waiting = s.waiting := rfl
@[simp] theorem State.writeResultThenFlag_mem (x : Reg) (b : Byte) (f : Bool) :
    (s.writeResultThenFlag x b f).mem = s.mem := rfl
@[simp] theorem State.writeResultThenFlag_params (x : Reg) (b : Byte) (f : Bool) :
    (s.writeResultThenFlag x b f).params = s.params := rfl
@[simp] theorem State.writeResultThenFlag_ports (x : Reg) (b : Byte) (f : Bool) :
    (s.writeResultThenFlag x b f).ports = s.ports := rfl

/-! ### `State.flagThenShift` -/

@[simp] theorem State.flagThenShift_i (x : Reg) (f g : Byte → Byte) : (s.flagThenShift x f g).i = s.i := rfl
@[simp] theorem State.flagThenShift_pc (x : Reg) (f g : Byte → Byte) : (s.flagThenShift x f g).pc = s.pc := rfl
@[simp] theorem State.flagThenShift_sp (x : Reg) (f g : Byte → Byte) : (s.flagThenShift x f g).sp = s.sp := rfl
@[simp] theorem State.flagThenShift_stack (x : Reg) (f g : Byte → Byte) :
    (s.flagThenShift x f g).stack = s.stack := rfl
@[simp] theorem State.flagThenShift_dt (x : Reg) (f g : Byte → Byte) : (s.flagThenShift x f g).dt = s.dt := rfl
@[simp] theorem State.flagThenShift_st (x : Reg) (f g : Byte → Byte) : (s.flagThenShift x f g).st = s.st := rfl
@[simp] theorem State.flagThenShift_fb (x : Reg) (f g : Byte → Byte) : (s.flagThenShift x f g).fb = s.fb := rfl
@[simp] theorem State.flagThenShift_displayDirty (x : Reg) (f g : Byte → Byte) :
    (s.flagThenShift x f g).displayDirty = s.displayDirty := rfl
@[simp] theorem State.flagThenShift_displayCleared (x : Reg) (f g : Byte → Byte) :
    (s.flagThenShift x f g).displayCleared = s.displayCleared := rfl
@[simp] theorem State.flagThenShift_toneOn (x : Reg) (f g : Byte → Byte) :
    (s.flagThenShift x f g).toneOn = s.toneOn := rfl
@[simp] theorem State.flagThenShift_lastTimerTick (x : Reg) (f g : Byte → Byte) :
    (s.flagThenShift x f g).lastTimerTick = s.lastTimerTick := rfl
@[simp] theorem State.flagThenShift_lastInstrTime (x : Reg) (f g : Byte → Byte) :
    (s.flagThenShift x f g).lastInstrTime = s.lastInstrTime := rfl
@[simp] theorem State.flagThenShift_halted (x : Reg) (f g : Byte → Byte) :
    (s.flagThenShift x f g).halted = s.halted := rfl
@[simp] theorem State.flagThenShift_haltCause (x : Reg) (f g : Byte → Byte) :
    (s.flagThenShift x f g).haltCause = s.haltCause := rfl
@[simp] theorem State.flagThenShift_waiting (x : Reg) (f g : Byte → Byte) :
    (s.flagThenShift x f g).waiting = s.waiting := rfl
@[simp] theorem State.flagThenShift_mem (x : Reg) (f g : Byte → Byte) : (s.flagThenShift x f g).mem = s.mem := rfl
@[simp] theorem State.flagThenShift_params (x : Reg) (f g : Byte → Byte) :
    (s.flagThenShift x f g).params = s.params := rfl
@[simp] theorem State.flagThenShift_ports (x : Reg) (f g : Byte → Byte) :
    (s.flagThenShift x f g).ports = s.ports := rfl

/-! ### `State.skipIf` -/

@[simp] theorem State.skipIf_v (c : Bool) : (s.skipIf c).v = s.v := by cases c <;> rfl
@[simp] theorem State.skipIf_i (c : Bool) : (s.skipIf c).i = s.i := by cases c <;> rfl
@[simp] theorem State.skipIf_pc (c : Bool) : (s.skipIf c).pc = if c then s.pc + 2 else s.pc := by cases c <;> rfl
@[simp] theorem State.skipIf_sp (c : Bool) : (s.skipIf c).sp = s.sp := by cases c <;> rfl
@[simp] theorem State.skipIf_stack (c : Bool) : (s.skipIf c).stack = s.stack := by cases c <;> rfl
@[simp] theorem State.skipIf_dt (c : Bool) : (s.skipIf c).dt = s.dt := by cases c <;> rfl
@[simp] theorem State.skipIf_st (c : Bool) : (s.skipIf c).st = s.st := by cases c <;> rfl
@[simp] theorem State.skipIf_fb (c : Bool) : (s.skipIf c).fb = s.fb := by cases c <;> rfl
@[simp] theorem State.skipIf_displayDirty (c : Bool) :
    (s.skipIf c).displayDirty = s.displayDirty := by cases c <;> rfl
@[simp] theorem State.skipIf_displayCleared (c : Bool) :
    (s.skipIf c).displayCleared = s.displayCleared := by cases c <;> rfl
@[simp] theorem State.skipIf_toneOn (c : Bool) : (s.skipIf c).toneOn = s.toneOn := by cases c <;> rfl
@[simp] theorem State.skipIf_lastTimerTick (c : Bool) :
    (s.skipIf c).lastTimerTick = s.lastTimerTick := by cases c <;> rfl
@[simp] theorem State.skipIf_lastInstrTime (c : Bool) :
    (s.skipIf c).lastInstrTime = s.lastInstrTime := by cases c <;> rfl
@[simp] theorem State.skipIf_halted (c : Bool) : (s.skipIf c).halted = s.halted := by cases c <;> rfl
@[simp] theorem State.skipIf_haltCause (c : Bool) : (s.skipIf c).haltCause = s.haltCause := by cases c <;> rfl
@[simp] theorem State.skipIf_waiting (c : Bool) : (s.skipIf c).waiting = s.waiting := by cases c <;> rfl
@[simp] theorem State.skipIf_mem (c : Bool) : (s.skipIf c).mem = s.mem := by cases c <;> rfl
@[simp] theorem State.skipIf_params (c : Bool) : (s.skipIf c).params = s.params := by cases c <;> rfl
@[simp] theorem State.skipIf_ports (c : Bool) : (s.skipIf c).ports = s.ports := by cases c <;> rfl

/-! ### `State.timerPart` -/

@[simp] theorem State.timerPart_v (t : Time) : (s.timerPart t).v = s.v := by unfold State.timerPart; split <;> rfl
@[simp] theorem State.timerPart_i (t : Time) : (s.timerPart t).i = s.i := by unfold State.timerPart; split <;> rfl
@[simp] theorem State.timerPart_pc (t : Time) : (s.timerPart t).pc = s.pc := by unfold State.timerPart; split <;> rfl
@[simp] theorem State.timerPart_sp (t : Time) : (s.timerPart t).sp = s.sp := by unfold State.timerPart; split <;> rfl
@[simp] theorem State.timerPart_stack (t : Time) :
    (s.timerPart t).stack = s.stack := by unfold State.timerPart; split <;> rfl
@[simp] theorem State.timerPart_fb (t : Time) : (s.timerPart t).fb = s.fb := by unfold State.timerPart; split <;> rfl
@[simp] theorem State.timerPart_displayDirty (t : Time) :
    (s.timerPart t).displayDirty = s.displayDirty := by unfold State.timerPart; split <;> rfl
@[simp] theorem State.timerPart_displayCleared (t : Time) :
    (s.timerPart t).displayCleared = s.displayCleared := by unfold State.timerPart; split <;> rfl
@[simp] theorem State.timerPart_lastInstrTime (t : Time) :
    (s.timerPart t).lastInstrTime = s.lastInstrTime := by unfold State.timerPart; split <;> rfl
@[simp] theorem State.timerPart_halted (t : Time) :
    (s.timerPart t).halted = s.halted := by unfold State.timerPart; split <;> rfl
@[simp] theorem State.timerPart_haltCause (t : Time) :
    (s.timerPart t).haltCause = s.haltCause := by unfold State.timerPart; split <;> rfl
@[simp] theorem State.timerPart_waiting (t : Time) :
    (s.timerPart t).waiting = s.waiting := by unfold State.timerPart; split <;> rfl
@[simp] theorem State.timerPart_mem (t : Time) :
    (s.timerPart t).mem = s.mem := by unfold State.timerPart; split <;> rfl
@[simp] theorem State.timerPart_params (t : Time) :
    (s.timerPart t).params = s.params := by unfold State.timerPart; split <;> rfl
@[simp] theorem State.timerPart_ports (t : Time) :
    (s.timerPart t).ports = s.ports := by unfold State.timerPart; split <;> rfl

/-! ### `State.endCycle` -/

@[simp] theorem State.endCycle_v : s.endCycle.v = s.v := by unfold State.endCycle; split <;> rfl
@[simp] theorem State.endCycle_i : s.endCycle.i = s.i := by unfold State.endCycle; split <;> rfl
@[simp] theorem State.endCycle_pc : s.endCycle.pc = s.pc := by unfold State.endCycle; split <;> rfl
@[simp] theorem State.endCycle_sp : s.endCycle.sp = s.sp := by unfold State.endCycle; split <;> rfl
@[simp] theorem State.endCycle_stack : s.endCycle.stack = s.stack := by unfold State.endCycle; split <;> rfl
@[simp] theorem State.endCycle_dt : s.endCycle.dt = s.dt := by unfold State.endCycle; split <;> rfl
@[simp] theorem State.endCycle_st : s.endCycle.st = s.st := by unfold State.endCycle; split <;> rfl
@[simp] theorem State.endCycle_fb : s.endCycle.fb = s.fb := by unfold State.endCycle; split <;> rfl
@[simp] theorem State.endCycle_displayDirty :
    s.endCycle.displayDirty = s.displayDirty := by unfold State.endCycle; split <;> rfl
@[simp] theorem State.endCycle_displayCleared :
    s.endCycle.displayCleared = s.displayCleared := by unfold State.endCycle; split <;> rfl
@[simp] theorem State.endCycle_toneOn : s.endCycle.toneOn = s.toneOn := by unfold State.endCycle; split <;> rfl
@[simp] theorem State.endCycle_lastTimerTick :
    s.endCycle.lastTimerTick = s.lastTimerTick := by unfold State.endCycle; split <;> rfl
@[simp] theorem State.endCycle_lastInstrTime :
    s.endCycle.lastInstrTime = s.lastInstrTime := by unfold State.endCycle; split <;> rfl
@[simp] theorem State.endCycle_halted : s.endCycle.halted = s.halted := by unfold State.endCycle; split <;> rfl
@[simp] theorem State.endCycle_haltCause :
    s.endCycle.haltCause = s.haltCause := by unfold State.endCycle; split <;> rfl
@[simp] theorem State.endCycle_waiting : s.endCycle.waiting = s.waiting := by unfold State.endCycle; split <;> rfl
@[simp] theorem State.endCycle_mem : s.endCycle.mem = s.mem := by unfold State.endCycle; split <;> rfl
@[simp] theorem State.endCycle_params : s.endCycle.params = s.params := by unfold State.endCycle; split <;> rfl

/-! ### `State.takeRandByte` -/

@[simp] theorem State.takeRandByte_v : s.takeRandByte.v = s.v := by unfold State.takeRandByte; split <;> rfl
@[simp] theorem State.takeRandByte_i : s.takeRandByte.i = s.i := by unfold State.takeRandByte; split <;> rfl
@[simp] theorem State.takeRandByte_pc : s.takeRandByte.pc = s.pc := by unfold State.takeRandByte; split <;> rfl
@[simp] theorem State.takeRandByte_sp : s.takeRandByte.sp = s.sp := by unfold State.takeRandByte; split <;> rfl
@[simp] theorem State.takeRandByte_stack :
    s.takeRandByte.stack = s.stack := by unfold State.takeRandByte; split <;> rfl
@[simp] theorem State.takeRandByte_dt : s.takeRandByte.dt = s.dt := by unfold State.takeRandByte; split <;> rfl
@[simp] theorem State.takeRandByte_st : s.takeRandByte.st = s.st := by unfold State.takeRandByte; split <;> rfl
@[simp] theorem State.takeRandByte_fb : s.takeRandByte.fb = s.fb := by unfold State.takeRandByte; split <;> rfl
@[simp] theorem State.takeRandByte_displayDirty :
    s.takeRandByte.displayDirty = s.displayDirty := by unfold State.takeRandByte; split <;> rfl
@[simp] theorem State.takeRandByte_displayCleared :
    s.takeRandByte.displayCleared = s.displayCleared := by unfold State.takeRandByte; split <;> rfl
@[simp] theorem State.takeRandByte_toneOn :
    s.takeRandByte.toneOn = s.toneOn := by unfold State.takeRandByte; split <;> rfl
@[simp] theorem State.takeRandByte_lastTimerTick :
    s.takeRandByte.lastTimerTick = s.lastTimerTick := by unfold State.takeRandByte; split <;> rfl
@[simp] theorem State.takeRandByte_lastInstrTime :
    s.takeRandByte.lastInstrTime = s.lastInstrTime := by unfold State.takeRandByte; split <;> rfl
@[simp] theorem State.takeRandByte_halted :
    s.takeRandByte.halted = s.halted := by unfold State.takeRandByte; split <;> rfl
@[simp] theorem State.takeRandByte_haltCause :
    s.takeRandByte.haltCause = s.haltCause := by unfold State.takeRandByte; split <;> rfl
@[simp] theorem State.takeRandByte_waiting :
    s.takeRandByte.waiting = s.waiting := by unfold State.takeRandByte; split <;> rfl
@[simp] theorem State.takeRandByte_mem : s.takeRandByte.mem = s.mem := by unfold State.takeRandByte; split <;> rfl
@[simp] theorem State.takeRandByte_params :
    s.takeRandByte.params = s.params := by unfold State.takeRandByte; split <;> rfl

/-! ### `State.takeKeyAnswer` -/

@[simp] theorem State.takeKeyAnswer_v : s.takeKeyAnswer.v = s.v := by unfold State.takeKeyAnswer; split <;> rfl
@[simp] theorem State.takeKeyAnswer_i : s.takeKeyAnswer.i = s.i := by unfold State.takeKeyAnswer; split <;> rfl
@[simp] theorem State.takeKeyAnswer_pc : s.takeKeyAnswer.pc = s.pc := by unfold State.takeKeyAnswer; split <;> rfl
@[simp] theorem State.takeKeyAnswer_sp : s.takeKeyAnswer.sp = s.sp := by unfold State.takeKeyAnswer; split <;> rfl
@[simp] theorem State.takeKeyAnswer_stack :
    s.takeKeyAnswer.stack = s.stack := by unfold State.takeKeyAnswer; split <;> rfl
@[simp] theorem State.takeKeyAnswer_dt : s.takeKeyAnswer.dt = s.dt := by unfold State.takeKeyAnswer; split <;> rfl
@[simp] theorem State.takeKeyAnswer_st : s.takeKeyAnswer.st = s.st := by unfold State.takeKeyAnswer; split <;> rfl
@[simp] theorem State.takeKeyAnswer_fb : s.takeKeyAnswer.fb = s.fb := by unfold State.takeKeyAnswer; split <;> rfl
@[simp] theorem State.takeKeyAnswer_displayDirty :
    s.takeKeyAnswer.displayDirty = s.displayDirty := by unfold State.takeKeyAnswer; split <;> rfl
@[simp] theorem State.takeKeyAnswer_displayCleared :
    s.takeKeyAnswer.displayCleared = s.displayCleared := by unfold State.takeKeyAnswer; split <;> rfl
@[simp] theorem State.takeKeyAnswer_toneOn :
    s.takeKeyAnswer.toneOn = s.toneOn := by unfold State.takeKeyAnswer; split <;> rfl
@[simp] theorem State.takeKeyAnswer_lastTimerTick :
    s.takeKeyAnswer.lastTimerTick = s.lastTimerTick := by unfold State.takeKeyAnswer; split <;> rfl
@[simp] theorem State.takeKeyAnswer_lastInstrTime :
    s.takeKeyAnswer.lastInstrTime = s.lastInstrTime := by unfold State.takeKeyAnswer; split <;> rfl
@[simp] theorem State.takeKeyAnswer_halted :
    s.takeKeyAnswer.halted = s.halted := by unfold State.takeKeyAnswer; split <;> rfl
@[simp] theorem State.takeKeyAnswer_haltCause :
    s.takeKeyAnswer.haltCause = s.haltCause := by unfold State.takeKeyAnswer; split <;> rfl
@[simp] theorem State.takeKeyAnswer_waiting :
    s.takeKeyAnswer.waiting = s.waiting := by unfold State.takeKeyAnswer; split <;> rfl
@[simp] theorem State.takeKeyAnswer_mem : s.takeKeyAnswer.mem = s.mem := by unfold State.takeKeyAnswer; split <;> rfl
@[simp] theorem State.takeKeyAnswer_params :
    s.takeKeyAnswer.params = s.params := by unfold State.takeKeyAnswer; split <;> rfl

/-! ### `State.takeHostCall` -/

@[simp] theorem State.takeHostCall_v : s.takeHostCall.v = s.v := by unfold State.takeHostCall; split <;> rfl
@[simp] theorem State.takeHostCall_i : s.takeHostCall.i = s.i := by unfold State.takeHostCall; split <;> rfl
@[simp] theorem State.takeHostCall_pc : s.takeHostCall.pc = s.pc := by unfold State.takeHostCall; split <;> rfl
@[simp] theorem State.takeHostCall_sp : s.takeHostCall.sp = s.sp := by unfold State.takeHostCall; split <;> rfl
@[simp] theorem State.takeHostCall_stack :
    s.takeHostCall.stack = s.stack := by unfold State.takeHostCall; split <;> rfl
@[simp] theorem State.takeHostCall_dt : s.takeHostCall.dt = s.dt := by unfold State.takeHostCall; split <;> rfl
@[simp] theorem State.takeHostCall_st : s.takeHostCall.st = s.st := by unfold State.takeHostCall; split <;> rfl
@[simp] theorem State.takeHostCall_fb : s.takeHostCall.fb = s.fb := by unfold State.takeHostCall; split <;> rfl
@[simp] theorem State.takeHostCall_displayDirty :
    s.takeHostCall.displayDirty = s.displayDirty := by unfold State.takeHostCall; split <;> rfl
@[simp] theorem State.takeHostCall_displayCleared :
    s.takeHostCall.displayCleared = s.displayCleared := by unfold State.takeHostCall; split <;> rfl
@[simp] theorem State.takeHostCall_toneOn :
    s.takeHostCall.toneOn = s.toneOn := by unfold State.takeHostCall; split <;> rfl
@[simp] theorem State.takeHostCall_lastTimerTick :
    s.takeHostCall.lastTimerTick = s.lastTimerTick := by unfold State.takeHostCall; split <;> rfl
@[simp] theorem State.takeHostCall_lastInstrTime :
    s.takeHostCall.lastInstrTime = s.lastInstrTime := by unfold State.takeHostCall; split <;> rfl
@[simp] theorem State.takeHostCall_halted :
    s.takeHostCall.halted = s.halted := by unfold State.takeHostCall; split <;> rfl
@[simp] theorem State.takeHostCall_haltCause :
    s.takeHostCall.haltCause = s.haltCause := by unfold State.takeHostCall; split <;> rfl
@[simp] theorem State.takeHostCall_waiting :
    s.takeHostCall.waiting = s.waiting := by unfold State.takeHostCall; split <;> rfl
@[simp] theorem State.takeHostCall_mem : s.takeHostCall.mem = s.mem := by unfold State.takeHostCall; split <;> rfl
@[simp] theorem State.takeHostCall_params :
    s.takeHostCall.params = s.params := by unfold State.takeHostCall; split <;> rfl

/-! ### Registers and memory bytes through updates that write neither -/

@[simp] theorem State.writeReg_readByte (x : Reg) (b : Byte) (p : Nat) : (s.writeReg x b).readByte p = s.readByte p := by
  simp [State.readByte]
@[simp] theorem State.setI_readReg (a : Word) (r : Reg) : (s.setI a).readReg r = s.readReg r := by
  simp [State.readReg]
@[simp] theorem State.setI_readByte (a : Word) (p : Nat) : (s.setI a).readByte p = s.readByte p := by
  simp [State.readByte]
@[simp] theorem State.setPc_readReg (a : Word) (r : Reg) : (s.setPc a).readReg r = s.readReg r := by
  simp [State.readReg]
@[simp] theorem State.setPc_readByte (a : Word) (p : Nat) : (s.setPc a).readByte p = s.readByte p := by
  simp [State.readByte]
@[simp] theorem State.writeByte_readReg (a : Nat) (b : Byte) (r : Reg) : (s.writeByte a b).readReg r = s.readReg r := by
  simp [State.readReg]
@[simp] theorem State.raise_readReg (c : HaltCause) (n : Option Nat) (r : Reg) : (s.raise c n).readReg r = s.readReg r := by
  simp [State.readReg]
@[simp] theorem State.raise_readByte (c : HaltCause) (n : Option Nat) (p : Nat) : (s.raise c n).readByte p = s.readByte p := by
  simp [State.readByte]
@[simp] theorem State.raiseMemory_readReg (r : Reg) : s.raiseMemory.readReg r = s.readReg r := by
  simp [State.readReg]
@[simp] theorem State.raiseMemory_readByte (p : Nat) : s.raiseMemory.readByte p = s.readByte p := by
  simp [State.readByte]
@[simp] theorem State.pushPc_readReg (r : Reg) : s.pushPc.readReg r = s.readReg r := by
  simp [State.readReg]
@[simp] theorem State.pushPc_readByte (p : Nat) : s.pushPc.readByte p = s.readByte p := by
  simp [State.readByte]
@[simp] theorem State.popPc_readReg (r : Reg) : s.popPc.readReg r = s.readReg r := by
  simp [State.readReg]
@[simp] theorem State.popPc_readByte (p : Nat) : s.popPc.readByte p = s.readByte p := by
  simp [State.readByte]
@[simp] theorem State.setFb_readReg (f : Framebuffer) (r : Reg) : (s.setFb f).readReg r = s.readReg r := by
  simp [State.readReg]
@[simp] theorem State.setFb_readByte (f : Framebuffer) (p : Nat) : (s.setFb f).readByte p = s.readByte p := by
  simp [State.readByte]
@[simp] theorem State.timerDecay_readReg (r : Reg) : s.timerDecay.readReg r = s.readReg r := by
  simp [State.readReg]
@[simp] theorem State.timerDecay_readByte (p : Nat) : s.timerDecay.readByte p = s.readByte p := by
  simp [State.readByte]
@[simp] theorem State.emitDecodeMiss_readReg (w a : Word) (r : Reg) : (s.emitDecodeMiss w a).readReg r = s.readReg r := by
  simp [State.readReg]
@[simp] theorem State.emitDecodeMiss_readByte (w a : Word) (p : Nat) : (s.emitDecodeMiss w a).readByte p = s.readByte p := by
  simp [State.readByte]
@[simp] theorem State.advance_readReg (t : Time) (r : Reg) : (s.advance t).readReg r = s.readReg r := by
  simp [State.readReg]
@[simp] theorem State.advance_readByte (t : Time) (p : Nat) : (s.advance t).readByte p = s.readByte p := by
  simp [State.readByte]
@[simp] theorem State.beginCycle_readReg (k : Word) (r : Reg) : (s.beginCycle k).readReg r = s.readReg r := by
  simp [State.readReg]
@[simp] theorem State.beginCycle_readByte (k : Word) (p : Nat) : (s.beginCycle k).readByte p = s.readByte p := by
  simp [State.readByte]
@[simp] theorem State.haltedCycle_readReg (r : Reg) : s.haltedCycle.readReg r = s.readReg r := by
  simp [State.readReg]
@[simp] theorem State.haltedCycle_readByte (p : Nat) : s.haltedCycle.readByte p = s.readByte p := by
  simp [State.readByte]
@[simp] theorem State.writeResultThenFlag_readByte (x : Reg) (b : Byte) (f : Bool) (p : Nat) : (s.writeResultThenFlag x b f).readByte p = s.readByte p := by
  simp [State.readByte]
@[simp] theorem State.flagThenShift_readByte (x : Reg) (f g : Byte → Byte) (p : Nat) : (s.flagThenShift x f g).readByte p = s.readByte p := by
  simp [State.readByte]
@[simp] theorem State.skipIf_readReg (c : Bool) (r : Reg) : (s.skipIf c).readReg r = s.readReg r := by
  simp [State.readReg]
@[simp] theorem State.skipIf_readByte (c : Bool) (p : Nat) : (s.skipIf c).readByte p = s.readByte p := by
  simp [State.readByte]
@[simp] theorem State.timerPart_readReg (t : Time) (r : Reg) : (s.timerPart t).readReg r = s.readReg r := by
  simp [State.readReg]
@[simp] theorem State.timerPart_readByte (t : Time) (p : Nat) : (s.timerPart t).readByte p = s.readByte p := by
  simp [State.readByte]
@[simp] theorem State.endCycle_readReg (r : Reg) : s.endCycle.readReg r = s.readReg r := by
  simp [State.readReg]
@[simp] theorem State.endCycle_readByte (p : Nat) : s.endCycle.readByte p = s.readByte p := by
  simp [State.readByte]
@[simp] theorem State.takeRandByte_readReg (r : Reg) : s.takeRandByte.readReg r = s.readReg r := by
  simp [State.readReg]
@[simp] theorem State.takeRandByte_readByte (p : Nat) : s.takeRandByte.readByte p = s.readByte p := by
  simp [State.readByte]
@[simp] theorem State.takeKeyAnswer_readReg (r : Reg) : s.takeKeyAnswer.readReg r = s.readReg r := by
  simp [State.readReg]
@[simp] theorem State.takeKeyAnswer_readByte (p : Nat) : s.takeKeyAnswer.readByte p = s.readByte p := by
  simp [State.readByte]
@[simp] theorem State.takeHostCall_readReg (r : Reg) : s.takeHostCall.readReg r = s.readReg r := by
  simp [State.readReg]
@[simp] theorem State.takeHostCall_readByte (p : Nat) : s.takeHostCall.readByte p = s.readByte p := by
  simp [State.readByte]

end Sys2Proof.Machine
end

