-- ==== Sys2Proof/Laws/Memory.lean ====
section
/-! SUPPORT. The memory laws: a byte reads back, a store leaves every other byte alone, and every store keeps the
canonical form. -/

namespace Sys2Proof.Machine

theorem Memory.rising_cons (a : Nat) (b : Byte) (m : Memory) :
    Memory.rising ((a, b) :: m) = true ↔ (∀ c ∈ m, a < c.1) ∧ Memory.rising m = true := by
  induction m generalizing a b with
  | nil => simp [Memory.rising]
  | cons c rest ih =>
    obtain ⟨k, d⟩ := c
    have hk := ih k d
    simp only [Memory.rising, Bool.and_eq_true, decide_eq_true_eq, List.mem_cons, forall_eq_or_imp]
    rw [hk]
    constructor
    · rintro ⟨h, hr, hs⟩
      exact ⟨⟨h, fun e he => Nat.lt_trans h (hr e he)⟩, hr, hs⟩
    · rintro ⟨⟨h, _⟩, hr, hs⟩
      exact ⟨h, hr, hs⟩

theorem Memory.find_none_of_above (a : Nat) (m : Memory) (h : ∀ c ∈ m, a < c.1) : Memory.find a m = none := by
  induction m with
  | nil => rfl
  | cons c rest ih =>
    obtain ⟨k, d⟩ := c
    simp only [List.mem_cons, forall_eq_or_imp] at h
    have : a ≠ k := by omega
    simp [Memory.find, this, ih h.2]

theorem Memory.find_insert_same (bg b : Byte) (a : Nat) (m : Memory) (h : Memory.rising m = true) :
    (Memory.find a (Memory.insert bg a b m)).getD bg = b := by
  induction m with
  | nil => by_cases e : b = bg <;> simp [Memory.insert, Memory.find, e]
  | cons c rest ih =>
    obtain ⟨k, d⟩ := c
    obtain ⟨hk, hr⟩ := (Memory.rising_cons k d rest).1 h
    rcases Nat.lt_trichotomy a k with lt | eq | gt
    · have habove : ∀ c ∈ (k, d) :: rest, a < c.1 := by
        simp only [List.mem_cons, forall_eq_or_imp]
        exact ⟨lt, fun c hc => Nat.lt_trans lt (hk c hc)⟩
      by_cases e : b = bg
      · simp [Memory.insert, lt, e, Memory.find_none_of_above a _ habove]
      · simp [Memory.insert, lt, e, Memory.find]
    · subst eq
      by_cases e : b = bg
      · simp [Memory.insert, e, Memory.find_none_of_above a rest hk]
      · simp [Memory.insert, e, Memory.find]
    · have h1 : ¬ a < k := by omega
      have h2 : a ≠ k := by omega
      simp [Memory.insert, Memory.find, h1, h2, ih hr]

theorem Memory.find_insert_other (bg b : Byte) {a p : Nat} (hp : p ≠ a) (m : Memory) :
    Memory.find p (Memory.insert bg a b m) = Memory.find p m := by
  induction m with
  | nil => by_cases e : b = bg <;> simp [Memory.insert, Memory.find, e, hp]
  | cons c rest ih =>
    obtain ⟨k, d⟩ := c
    simp only [Memory.insert]
    split
    · split <;> simp [Memory.find, hp]
    · split
      · subst_vars
        split <;> simp [Memory.find, hp]
      · simp [Memory.find, ih]

theorem Memory.mem_insert (bg b : Byte) (a : Nat) (m : Memory) (c : Host.Cell)
    (h : c ∈ Memory.insert bg a b m) : c ∈ m ∨ (c = (a, b) ∧ b ≠ bg) := by
  induction m with
  | nil =>
    simp only [Memory.insert] at h
    split at h <;> simp_all
  | cons e rest ih =>
    obtain ⟨k, d⟩ := e
    simp only [Memory.insert] at h
    split at h
    · split at h <;> simp_all
      tauto
    · split at h
      · split at h <;> simp_all
        tauto
      · rcases List.mem_cons.1 h with h | h
        · exact .inl (by simp [h])
        · rcases ih h with h | h
          · exact .inl (by simp [h])
          · exact .inr h

theorem Memory.rising_insert (bg b : Byte) (a : Nat) (m : Memory) (h : Memory.rising m = true) :
    Memory.rising (Memory.insert bg a b m) = true := by
  induction m with
  | nil => by_cases e : b = bg <;> simp [Memory.insert, Memory.rising, e]
  | cons c rest ih =>
    obtain ⟨k, d⟩ := c
    obtain ⟨hk, hr⟩ := (Memory.rising_cons k d rest).1 h
    simp only [Memory.insert]
    split
    · split
      · exact h
      · refine (Memory.rising_cons _ _ _).2 ⟨?_, h⟩
        simp only [List.mem_cons, forall_eq_or_imp]
        exact ⟨‹_›, fun c hc => Nat.lt_trans ‹_› (hk c hc)⟩
    · split
      · subst_vars
        split
        · exact hr
        · exact (Memory.rising_cons _ _ _).2 ⟨hk, hr⟩
      · refine (Memory.rising_cons _ _ _).2 ⟨fun c hc => ?_, ih hr⟩
        rcases Memory.mem_insert _ _ _ _ _ hc with hm | ⟨rfl, _⟩
        · exact hk c hm
        · simp only; omega

theorem Memory.wf_iff (g : Vector Byte 80) (m : Memory) :
    Memory.wf g m = true ↔
      Memory.rising m = true ∧ ∀ c ∈ m, c.1 < Config.memSize ∧ c.2 ≠ Memory.unlisted g c.1 := by
  simp [Memory.wf, List.all_eq_true]

@[simp] theorem Memory.wf_nil (g : Vector Byte 80) : Memory.wf g [] = true := rfl

/-- Every store keeps the canonical form. -/
theorem Memory.wf_write (g : Vector Byte 80) (m : Memory) (a : Nat) (b : Byte) (h : Memory.wf g m = true) :
    Memory.wf g (Memory.write g m a b) = true := by
  rw [Memory.wf_iff] at h ⊢
  unfold Memory.write
  split
  · refine ⟨Memory.rising_insert _ _ _ _ h.1, fun c hc => ?_⟩
    rcases Memory.mem_insert _ _ _ _ _ hc with hm | ⟨rfl, hne⟩
    · exact h.2 c hm
    · exact ⟨‹_›, hne⟩
  · exact h

theorem Memory.read_write_same (g : Vector Byte 80) (m : Memory) (a : Nat) (b : Byte)
    (h : Memory.wf g m = true) (ha : a < Config.memSize) : Memory.read g (Memory.write g m a b) a = b := by
  simp [Memory.read, Memory.write, ha, Memory.find_insert_same _ _ _ _ ((Memory.wf_iff g m).1 h).1]

theorem Memory.read_write_other (g : Vector Byte 80) (m : Memory) {a p : Nat} (b : Byte) (hp : p ≠ a) :
    Memory.read g (Memory.write g m a b) p = Memory.read g m p := by
  unfold Memory.write
  split
  · simp [Memory.read, Memory.find_insert_other _ _ hp]
  · rfl

variable (s : State)

theorem State.readByte_writeByte_same (a : Nat) (b : Byte)
    (h : Memory.wf s.params.glyphs s.mem = true) (ha : a < Config.memSize) : (s.writeByte a b).readByte a = b := by
  simp [State.readByte, Memory.read_write_same _ _ _ _ h ha]

theorem State.readByte_writeByte_other {a p : Nat} (b : Byte) (hp : p ≠ a) :
    (s.writeByte a b).readByte p = s.readByte p := by
  simp [State.readByte, Memory.read_write_other _ _ _ hp]

/-- A sequence of stores changes memory and nothing else. -/
theorem State.writeBytes_eq (a : Nat) (bs : List Byte) :
    s.writeBytes a bs = { s with mem := (s.writeBytes a bs).mem } := by
  induction bs generalizing s a with
  | nil => rfl
  | cons b bs ih => rw [State.writeBytes, ih (s.writeByte a b) (a + 1)]; rfl

theorem State.writeBytes_wf (a : Nat) (bs : List Byte) (h : Memory.wf s.params.glyphs s.mem = true) :
    Memory.wf s.params.glyphs (s.writeBytes a bs).mem = true := by
  induction bs generalizing s a with
  | nil => exact h
  | cons b bs ih => exact ih (s.writeByte a b) (a + 1) (Memory.wf_write _ _ _ _ h)

/-- Bytes outside the stored range read as before. -/
theorem State.readByte_writeBytes_outside (a : Nat) (bs : List Byte) (p : Nat)
    (hp : p < a ∨ a + bs.length ≤ p) : (s.writeBytes a bs).readByte p = s.readByte p := by
  induction bs generalizing s a with
  | nil => rfl
  | cons b bs ih =>
    simp only [List.length_cons] at hp
    rw [State.writeBytes, ih (s.writeByte a b) (a + 1) (by omega)]
    exact s.readByte_writeByte_other b (by omega)

/-- The stored bytes read back. -/
theorem State.readByte_writeBytes_inside (a : Nat) (bs : List Byte) (k : Nat) (hk : k < bs.length)
    (h : Memory.wf s.params.glyphs s.mem = true) (hfit : a + bs.length ≤ Config.memSize) :
    (s.writeBytes a bs).readByte (a + k) = bs[k] := by
  induction bs generalizing s a k with
  | nil => simp at hk
  | cons b bs ih =>
    simp only [List.length_cons] at hk hfit
    cases k with
    | zero =>
      rw [State.writeBytes, Nat.add_zero, State.readByte_writeBytes_outside _ _ _ _ (by omega)]
      exact s.readByte_writeByte_same a b h (by omega)
    | succ k =>
      have := ih (s.writeByte a b) (a + 1) k (by omega) (Memory.wf_write _ _ _ _ h) (by omega)
      rw [State.writeBytes, show a + (k + 1) = a + 1 + k by omega, this, List.getElem_cons_succ]

end Sys2Proof.Machine
end

