-- ==== Sys2Proof/Laws/Registers.lean ====
section
/-! SUPPORT. Reading a register after writing one, and the two orders of writing a result and its flag (R143). -/

namespace Sys2Proof.Machine

variable (s : State)

@[simp] theorem State.readReg_writeReg_same (x : Reg) (b : Byte) : (s.writeReg x b).readReg x = b := by
  simp [State.readReg, State.writeReg, Vector.get_eq_getElem]

theorem State.readReg_writeReg (x r : Reg) (b : Byte) :
    (s.writeReg x b).readReg r = if r = x then b else s.readReg r := by
  simp only [State.readReg, State.writeReg, Vector.get_eq_getElem, Vector.getElem_set]
  by_cases h : r = x
  · simp [h]
  · have : x.val ≠ r.val := fun e => h (Fin.ext e.symm)
    simp [h, this]

theorem State.readReg_writeReg_other {x r : Reg} (h : r ≠ x) (b : Byte) :
    (s.writeReg x b).readReg r = s.readReg r := by
  simp [State.readReg_writeReg, h]

/-- The flag is what `VF` holds afterwards, whichever register the result went to. -/
theorem State.writeResultThenFlag_readReg (x r : Reg) (b : Byte) (f : Bool) :
    (s.writeResultThenFlag x b f).readReg r =
      if r = Reg.vf then flagByte f else if r = x then b else s.readReg r := by
  simp [State.writeResultThenFlag, State.readReg_writeReg]

/-- What the shifts leave in each register: the shift is of the register as it stands after `VF` was written. -/
theorem State.flagThenShift_readReg (x r : Reg) (f g : Byte → Byte) :
    (s.flagThenShift x f g).readReg r =
      if r = x then g (if x = Reg.vf then f (s.readReg x) else s.readReg x)
      else if r = Reg.vf then f (s.readReg x) else s.readReg r := by
  simp [State.flagThenShift, State.readReg_writeReg]

theorem mem_regsUpTo (x k : Reg) : k ∈ regsUpTo x ↔ k ≤ x := by
  simp only [regsUpTo, List.mem_map, List.mem_range]
  constructor
  · rintro ⟨n, hn, rfl⟩
    have := x.isLt
    simp only [Fin.le_def, Fin.ofNat]
    omega
  · intro h
    exact ⟨k.val, by simp only [Fin.le_def] at h; omega, by simp [Fin.ofNat, Nat.mod_eq_of_lt k.isLt]⟩

@[simp] theorem length_regsUpTo (x : Reg) : (regsUpTo x).length = x.val + 1 := by simp [regsUpTo]

theorem getElem_regsUpTo (x : Reg) (k : Nat) (h : k < (regsUpTo x).length) :
    (regsUpTo x)[k] = Fin.ofNat 16 k := by simp [regsUpTo]

end Sys2Proof.Machine
end

