-- ==== Sys2Proof/Laws/Blocks.lean ====
section
/-! SUPPORT. The operations that move several bytes: what a run of stores and a block load leave alone, what a block
load puts in each register, and when an access fits in memory. -/

namespace Sys2Proof.Machine

variable (s : State)

@[simp] theorem State.writeBytes_v (a : Nat) (bs : List Byte) : (s.writeBytes a bs).v = s.v := by
  rw [State.writeBytes_eq]
@[simp] theorem State.writeBytes_i (a : Nat) (bs : List Byte) : (s.writeBytes a bs).i = s.i := by
  rw [State.writeBytes_eq]
@[simp] theorem State.writeBytes_pc (a : Nat) (bs : List Byte) : (s.writeBytes a bs).pc = s.pc := by
  rw [State.writeBytes_eq]
@[simp] theorem State.writeBytes_sp (a : Nat) (bs : List Byte) : (s.writeBytes a bs).sp = s.sp := by
  rw [State.writeBytes_eq]
@[simp] theorem State.writeBytes_stack (a : Nat) (bs : List Byte) : (s.writeBytes a bs).stack = s.stack := by
  rw [State.writeBytes_eq]
@[simp] theorem State.writeBytes_dt (a : Nat) (bs : List Byte) : (s.writeBytes a bs).dt = s.dt := by
  rw [State.writeBytes_eq]
@[simp] theorem State.writeBytes_st (a : Nat) (bs : List Byte) : (s.writeBytes a bs).st = s.st := by
  rw [State.writeBytes_eq]
@[simp] theorem State.writeBytes_fb (a : Nat) (bs : List Byte) : (s.writeBytes a bs).fb = s.fb := by
  rw [State.writeBytes_eq]
@[simp] theorem State.writeBytes_displayDirty (a : Nat) (bs : List Byte) : (s.writeBytes a bs).displayDirty = s.displayDirty := by
  rw [State.writeBytes_eq]
@[simp] theorem State.writeBytes_displayCleared (a : Nat) (bs : List Byte) : (s.writeBytes a bs).displayCleared = s.displayCleared := by
  rw [State.writeBytes_eq]
@[simp] theorem State.writeBytes_toneOn (a : Nat) (bs : List Byte) : (s.writeBytes a bs).toneOn = s.toneOn := by
  rw [State.writeBytes_eq]
@[simp] theorem State.writeBytes_lastTimerTick (a : Nat) (bs : List Byte) : (s.writeBytes a bs).lastTimerTick = s.lastTimerTick := by
  rw [State.writeBytes_eq]
@[simp] theorem State.writeBytes_lastInstrTime (a : Nat) (bs : List Byte) : (s.writeBytes a bs).lastInstrTime = s.lastInstrTime := by
  rw [State.writeBytes_eq]
@[simp] theorem State.writeBytes_halted (a : Nat) (bs : List Byte) : (s.writeBytes a bs).halted = s.halted := by
  rw [State.writeBytes_eq]
@[simp] theorem State.writeBytes_haltCause (a : Nat) (bs : List Byte) : (s.writeBytes a bs).haltCause = s.haltCause := by
  rw [State.writeBytes_eq]
@[simp] theorem State.writeBytes_waiting (a : Nat) (bs : List Byte) : (s.writeBytes a bs).waiting = s.waiting := by
  rw [State.writeBytes_eq]
@[simp] theorem State.writeBytes_params (a : Nat) (bs : List Byte) : (s.writeBytes a bs).params = s.params := by
  rw [State.writeBytes_eq]
@[simp] theorem State.writeBytes_ports (a : Nat) (bs : List Byte) : (s.writeBytes a bs).ports = s.ports := by
  rw [State.writeBytes_eq]

@[simp] theorem State.writeBytes_readReg (a : Nat) (bs : List Byte) (r : Reg) :
    (s.writeBytes a bs).readReg r = s.readReg r := by simp [State.readReg]

/-- Writing registers one after the other changes the register file and nothing else. -/
theorem State.foldl_writeReg_eq (ks : List Reg) (f : State → Reg → Byte) :
    ks.foldl (fun t k => t.writeReg k (f t k)) s =
      { s with v := (ks.foldl (fun t k => t.writeReg k (f t k)) s).v } := by
  induction ks generalizing s with
  | nil => rfl
  | cons k ks ih => rw [List.foldl_cons, ih (s.writeReg k (f s k))]; rfl

/-- A block load changes the register file and nothing else. -/
theorem State.loadBlock_eq (x : Reg) : s.loadBlock x = { s with v := (s.loadBlock x).v } :=
  s.foldl_writeReg_eq (regsUpTo x) _

@[simp] theorem State.loadBlock_i (x : Reg) : (s.loadBlock x).i = s.i := by
  rw [State.loadBlock_eq]
@[simp] theorem State.loadBlock_pc (x : Reg) : (s.loadBlock x).pc = s.pc := by
  rw [State.loadBlock_eq]
@[simp] theorem State.loadBlock_sp (x : Reg) : (s.loadBlock x).sp = s.sp := by
  rw [State.loadBlock_eq]
@[simp] theorem State.loadBlock_stack (x : Reg) : (s.loadBlock x).stack = s.stack := by
  rw [State.loadBlock_eq]
@[simp] theorem State.loadBlock_dt (x : Reg) : (s.loadBlock x).dt = s.dt := by
  rw [State.loadBlock_eq]
@[simp] theorem State.loadBlock_st (x : Reg) : (s.loadBlock x).st = s.st := by
  rw [State.loadBlock_eq]
@[simp] theorem State.loadBlock_fb (x : Reg) : (s.loadBlock x).fb = s.fb := by
  rw [State.loadBlock_eq]
@[simp] theorem State.loadBlock_displayDirty (x : Reg) : (s.loadBlock x).displayDirty = s.displayDirty := by
  rw [State.loadBlock_eq]
@[simp] theorem State.loadBlock_displayCleared (x : Reg) : (s.loadBlock x).displayCleared = s.displayCleared := by
  rw [State.loadBlock_eq]
@[simp] theorem State.loadBlock_toneOn (x : Reg) : (s.loadBlock x).toneOn = s.toneOn := by
  rw [State.loadBlock_eq]
@[simp] theorem State.loadBlock_lastTimerTick (x : Reg) : (s.loadBlock x).lastTimerTick = s.lastTimerTick := by
  rw [State.loadBlock_eq]
@[simp] theorem State.loadBlock_lastInstrTime (x : Reg) : (s.loadBlock x).lastInstrTime = s.lastInstrTime := by
  rw [State.loadBlock_eq]
@[simp] theorem State.loadBlock_halted (x : Reg) : (s.loadBlock x).halted = s.halted := by
  rw [State.loadBlock_eq]
@[simp] theorem State.loadBlock_haltCause (x : Reg) : (s.loadBlock x).haltCause = s.haltCause := by
  rw [State.loadBlock_eq]
@[simp] theorem State.loadBlock_waiting (x : Reg) : (s.loadBlock x).waiting = s.waiting := by
  rw [State.loadBlock_eq]
@[simp] theorem State.loadBlock_mem (x : Reg) : (s.loadBlock x).mem = s.mem := by
  rw [State.loadBlock_eq]
@[simp] theorem State.loadBlock_params (x : Reg) : (s.loadBlock x).params = s.params := by
  rw [State.loadBlock_eq]
@[simp] theorem State.loadBlock_ports (x : Reg) : (s.loadBlock x).ports = s.ports := by
  rw [State.loadBlock_eq]

@[simp] theorem State.loadBlock_readByte (x : Reg) (a : Nat) : (s.loadBlock x).readByte a = s.readByte a := by
  simp [State.readByte]

theorem State.foldl_load_readReg (ks : List Reg) (r : Reg) :
    (ks.foldl (fun t k => t.writeReg k (t.readByte (t.effAddr k.val))) s).readReg r =
      if r ∈ ks then s.readByte (s.effAddr r.val) else s.readReg r := by
  induction ks generalizing s with
  | nil => simp
  | cons k ks ih =>
    rw [List.foldl_cons, ih]
    simp only [State.writeReg_readByte, State.effAddr, State.writeReg_i, State.readReg_writeReg, List.mem_cons]
    by_cases h : r = k
    · subst h; simp
    · simp [h]

/-- Registers up to `x` hold the bytes at `I` on; those above are untouched (R165). -/
theorem State.loadBlock_readReg (x r : Reg) :
    (s.loadBlock x).readReg r = if r ≤ x then s.readByte (s.effAddr r.val) else s.readReg r := by
  simp only [State.loadBlock, State.foldl_load_readReg, mem_regsUpTo]

/-- An access fits when its last address is at most 4095 (R55). -/
theorem State.accessFits_iff (n : Nat) : s.accessFits n = true ↔ n = 0 ∨ s.i.toNat + (n - 1) < Config.memSize := by
  simp [State.accessFits]

@[simp] theorem State.length_regBlock (x : Reg) : (s.regBlock x).length = x.val + 1 := by simp [State.regBlock]

@[simp] theorem length_bcdDigits (b : Byte) : (bcdDigits b).length = 3 := rfl

end Sys2Proof.Machine
end

