-- ==== Sys2Proof/Laws/Framebuffer.lean ====
section
/-! SUPPORT. The framebuffer laws: a cell reads back, a write leaves every other cell alone, and what drawing a sprite
leaves in each cell and reports as a collision (R182). -/

namespace Sys2Proof.Machine

theorem Framebuffer.cell_outside (fb : Framebuffer) {y x : Nat} (h : ¬ (y < 32 ∧ x < 64)) : fb.cell y x = false := by
  simp [Framebuffer.cell, h]

@[simp] theorem Framebuffer.cell_blank (y x : Nat) : Framebuffer.blank.cell y x = false := by
  simp [Framebuffer.cell, Framebuffer.blank]

theorem Framebuffer.cell_setCell (fb : Framebuffer) (y x q p : Nat) (b : Bool) :
    (fb.setCell y x b).cell q p = if q = y ∧ p = x ∧ y < 32 ∧ x < 64 then b else fb.cell q p := by
  unfold Framebuffer.setCell
  split
  · rename_i h
    unfold Framebuffer.cell
    by_cases hq : q < 32 ∧ p < 64
    · simp only [hq, and_self, dite_true, Vector.getElem_set]
      by_cases hy : y = q
      · subst hy
        simp only [true_and, if_true, Vector.getElem_set]
        by_cases hx : x = p
        · subst hx; simp [h]
        · have : p ≠ x := fun e => hx e.symm
          simp [hx, this]
      · have : q ≠ y := fun e => hy e.symm
        simp [hy, this]
    · have : ¬ (q = y ∧ p = x ∧ y < 32 ∧ x < 64) := by
        rintro ⟨rfl, rfl, h1, h2⟩; exact hq ⟨h1, h2⟩
      simp [hq, this]
  · rename_i h
    have : ¬ (q = y ∧ p = x ∧ y < 32 ∧ x < 64) := by rintro ⟨_, _, h1, h2⟩; exact h ⟨h1, h2⟩
    simp [this]

/-- Two framebuffers with the same cells are the same. -/
theorem Framebuffer.ext_cell {f g : Framebuffer} (h : ∀ y x, f.cell y x = g.cell y x) : f = g := by
  apply Vector.ext
  intro y hy
  apply Vector.ext
  intro x hx
  simpa [Framebuffer.cell, hy, hx] using h y x

/-- One pixel: the cell it falls on is toggled, and turning an on cell off is a collision. -/
theorem Drawing.plot_cell (d : Drawing) (y x q p : Nat) (pixel : Bool) (hy : y < 32) (hx : x < 64) :
    (d.plot y x pixel).1.cell q p = (d.1.cell q p ^^ (pixel && decide (q = y ∧ p = x))) := by
  unfold Drawing.plot
  cases pixel
  · simp
  · simp only [if_true, Framebuffer.cell_setCell, hy, hx, and_true, Bool.true_and]
    by_cases h : q = y ∧ p = x
    · obtain ⟨rfl, rfl⟩ := h; simp
    · simp [h]

theorem Drawing.plot_hit (d : Drawing) (y x : Nat) (pixel : Bool) :
    (d.plot y x pixel).2 = (d.2 || (pixel && d.1.cell y x)) := by
  unfold Drawing.plot; cases pixel <;> simp

/-- One sprite row, as far as it is drawn: each cell of the row takes the sprite's pixel. -/
theorem Drawing.row_spec (d : Drawing) (y x0 cols : Nat) (b : Byte) (hy : y < 32) (hx : x0 + cols ≤ 64) :
    (∀ q p, (d.row y x0 cols b).1.cell q p =
      (d.1.cell q p ^^ (decide (q = y ∧ x0 ≤ p ∧ p < x0 + cols) && b.getLsbD (7 - (p - x0))))) ∧
    ((d.row y x0 cols b).2 = true ↔
      d.2 = true ∨ ∃ c, c < cols ∧ b.getLsbD (7 - c) = true ∧ d.1.cell y (x0 + c) = true) := by
  unfold Drawing.row
  induction cols with
  | zero =>
    have none_drawn : ∀ q p, decide (q = y ∧ x0 ≤ p ∧ p < x0 + 0) = false := by
      intro q p; simp only [decide_eq_false_iff_not]; omega
    simp only [none_drawn]
    simp
  | succ n ih =>
    obtain ⟨ihc, ihh⟩ := ih (by omega)
    rw [List.range_succ, List.foldl_append, List.foldl_cons, List.foldl_nil]
    constructor
    · intro q p
      rw [Drawing.plot_cell _ _ _ _ _ _ hy (by omega), ihc, Bool.xor_assoc]
      congr 1
      by_cases hq : q = y <;> by_cases hp : p = x0 + n
      · subst hp; simp [hq]
      · have : (x0 ≤ p ∧ p < x0 + (n + 1)) ↔ (x0 ≤ p ∧ p < x0 + n) := by omega
        simp [hq, hp, this]
      · simp [hq]
      · simp [hq]
    · rw [Drawing.plot_hit, Bool.or_eq_true, Bool.and_eq_true, ihh, ihc]
      have e : decide (y = y ∧ x0 ≤ x0 + n ∧ x0 + n < x0 + n) = false := by simp
      rw [e, Bool.false_and, Bool.xor_false]
      constructor
      · rintro ((h | ⟨c, hc, h⟩) | h)
        · exact .inl h
        · exact .inr ⟨c, by omega, h⟩
        · exact .inr ⟨n, by omega, h⟩
      · rintro (h | ⟨c, hc, h⟩)
        · exact .inl (.inl h)
        · by_cases hn : c = n
          · subst hn; exact .inr h
          · exact .inl (.inr ⟨c, by omega, h⟩)

/-- Everything drawing a sprite does: each cell takes the sprite's pixel by XOR, and the collision says whether an on
cell met an on pixel. -/
theorem State.drawSprite_spec (s : State) (y0 x0 rows cols : Nat) (hy : y0 + rows ≤ 32) (hx : x0 + cols ≤ 64) :
    (∀ q p, (s.drawSprite y0 x0 rows cols).1.cell q p = (s.fb.cell q p ^^ s.spritePixel y0 x0 rows cols q p)) ∧
    ((s.drawSprite y0 x0 rows cols).2 = true ↔
      ∃ q p, s.spritePixel y0 x0 rows cols q p = true ∧ s.fb.cell q p = true) := by
  unfold State.drawSprite
  induction rows with
  | zero =>
    have none_drawn : ∀ q p, s.spritePixel y0 x0 0 cols q p = false := by
      intro q p
      simp only [State.spritePixel, Bool.and_eq_false_imp, decide_eq_true_eq]
      omega
    simp [none_drawn]
  | succ n ih =>
    obtain ⟨ihc, ihh⟩ := ih (by omega)
    rw [List.range_succ, List.foldl_append, List.foldl_cons, List.foldl_nil]
    obtain ⟨rc, rh⟩ := Drawing.row_spec
      ((List.range n).foldl (fun d r => d.row (y0 + r) x0 cols (s.readByte (s.i.toNat + r))) (s.fb, false))
      (y0 + n) x0 cols (s.readByte (s.i.toNat + n)) (by omega) hx
    have below : ∀ p, s.spritePixel y0 x0 n cols (y0 + n) p = false := by simp [State.spritePixel]
    constructor
    · intro q p
      rw [rc, ihc, Bool.xor_assoc]
      congr 1
      by_cases hq : q = y0 + n
      · subst hq; simp [State.spritePixel]
      · have : (y0 ≤ q ∧ q < y0 + (n + 1) ∧ x0 ≤ p ∧ p < x0 + cols) ↔
            (y0 ≤ q ∧ q < y0 + n ∧ x0 ≤ p ∧ p < x0 + cols) := by omega
        simp [State.spritePixel, hq, this]
    · rw [rh, ihh]
      constructor
      · rintro (⟨q, p, h, hc⟩ | ⟨c, hc, hb, hcell⟩)
        · refine ⟨q, p, ?_, hc⟩
          simp only [State.spritePixel, Bool.and_eq_true, decide_eq_true_eq] at h ⊢
          exact ⟨⟨h.1.1, by omega, h.1.2.2⟩, h.2⟩
        · rw [ihc, below, Bool.xor_false] at hcell
          refine ⟨y0 + n, x0 + c, ?_, hcell⟩
          simp only [State.spritePixel, Bool.and_eq_true, decide_eq_true_eq, Nat.add_sub_cancel_left]
          exact ⟨by omega, hb⟩
      · rintro ⟨q, p, h, hc⟩
        by_cases hq : q = y0 + n
        · subst hq
          simp only [State.spritePixel, Bool.and_eq_true, decide_eq_true_eq, Nat.add_sub_cancel_left] at h
          refine .inr ⟨p - x0, by omega, h.2, ?_⟩
          rw [show x0 + (p - x0) = p by omega, ihc, below, Bool.xor_false, hc]
        · refine .inl ⟨q, p, ?_, hc⟩
          simp only [State.spritePixel, Bool.and_eq_true, decide_eq_true_eq] at h ⊢
          exact ⟨by omega, h.2⟩

/-- The drawn area of `DRW` is on screen (R182). -/
theorem State.visible_bounds (s : State) (x y : Reg) (n : Nat) :
    s.startRow y + s.visibleRows y n ≤ 32 ∧ s.startCol x + s.visibleCols x ≤ 64 := by
  simp only [State.visibleRows, State.visibleCols, State.startRow, State.startCol, Config.fbWidth, Config.fbHeight,
    Config.spriteWidth]
  omega

end Sys2Proof.Machine
end

