-- ==== Sys2Proof/Laws/Cycle.lean ====
section
/-! SUPPORT. What the ports answer, the three outcomes of a key wait, and what one step can do: a look at the key wait,
a halted cycle, or a cycle whose two gates are tested (`step_cases`). -/

namespace Sys2Proof.Machine

open Sys2Proof.Config (KeyAnswer)

variable (s : State)

/-! ### Inputs that are written out -/

theorem State.randByte_of_cons {b : Byte} {bs : List Byte} (h : s.ports.randBytes = b :: bs) : s.randByte = b := by
  simp [State.randByte, h]

theorem State.takeRandByte_of_cons {b : Byte} {bs : List Byte} (h : s.ports.randBytes = b :: bs) :
    s.takeRandByte = { s with ports := { s.ports with randBytes := bs } } := by simp [State.takeRandByte, h]

theorem State.keyAnswer_of_cons {a : KeyAnswer} {rest : List KeyAnswer} (h : s.ports.keyAnswers = a :: rest) :
    s.keyAnswer = a := by simp [State.keyAnswer, h]

theorem State.takeKeyAnswer_of_cons {a : KeyAnswer} {rest : List KeyAnswer} (h : s.ports.keyAnswers = a :: rest) :
    s.takeKeyAnswer = { s with ports := { s.ports with keyAnswers := rest } } := by simp [State.takeKeyAnswer, h]

theorem State.hostCall_of_cons {c : HostCall} {rest : List HostCall} (h : s.ports.calls = c :: rest) :
    s.hostCall = c := by simp [State.hostCall, h]

theorem State.takeHostCall_of_cons {c : HostCall} {rest : List HostCall} (h : s.ports.calls = c :: rest) :
    s.takeHostCall = { s with ports := { s.ports with calls := rest } } := by simp [State.takeHostCall, h]

/-! ### Taking an input changes its own ports only -/

theorem State.takeHostCall_eq : s.takeHostCall = { s with ports := s.takeHostCall.ports } := by
  unfold State.takeHostCall; split <;> rfl

theorem State.takeKeyAnswer_eq : s.takeKeyAnswer = { s with ports := s.takeKeyAnswer.ports } := by
  unfold State.takeKeyAnswer; split <;> rfl

theorem State.takeRandByte_eq : s.takeRandByte = { s with ports := s.takeRandByte.ports } := by
  unfold State.takeRandByte; split <;> rfl

theorem State.callTaken_takeHostCall : CallTaken s s.takeHostCall := by
  unfold State.takeHostCall
  split <;> rename_i h <;> simp [CallTaken, h]

theorem State.inputsKept_takeHostCall : InputsKept s s.takeHostCall := by
  unfold State.takeHostCall
  split <;> exact ⟨⟨rfl, rfl⟩, rfl, rfl⟩

theorem State.endCycle_eq : s.endCycle = { s with ports := s.endCycle.ports } := by
  unfold State.endCycle; split <;> rfl

theorem State.haltedCycle_eq : s.haltedCycle = { s with ports := s.haltedCycle.ports } := rfl

/-! ### The state the instruction gate is tested on -/

/-- A cycle writes the timers, the transient flags, the tick time and the ports before its instruction gate, and nothing
else. -/
theorem State.timed_eq :
    s.timed =
      { s with
        dt := s.timed.dt, st := s.timed.st, displayDirty := false, displayCleared := false, toneOn := s.timed.toneOn,
        lastTimerTick := s.timed.lastTimerTick, ports := s.timed.ports } := by
  unfold State.timed State.timerPart State.takeHostCall
  split <;> split <;> rfl

/-- What the ports hold by then: the call taken, its keys latched, nothing put out. -/
theorem State.timed_ports :
    s.timed.ports = { s.takeHostCall.ports with keys := s.hostCall.keys, status := none, diagnostic := none } := by
  unfold State.timed State.timerPart
  split <;> rfl

/-- Taking the call and clearing the flags move neither time: the timer gate is tested on `s`. -/
theorem State.timerGate_beginCycle :
    (s.takeHostCall.beginCycle s.hostCall.keys).timerGate s.hostCall.now =
      decide (s.params.timerIntervalNs < s.hostCall.now.toNat - s.lastTimerTick.toNat) := by
  unfold State.takeHostCall
  split <;> rfl

theorem State.timed_of_tick (h : s.params.timerIntervalNs < s.hostCall.now.toNat - s.lastTimerTick.toNat) :
    s.timed.dt = decayed s.dt ∧ s.timed.st = decayed s.st ∧ s.timed.lastTimerTick = s.hostCall.now ∧
      s.timed.toneOn = decide (0 < (decayed s.st).toNat) := by
  unfold State.timed State.timerPart
  rw [s.timerGate_beginCycle, if_pos (decide_eq_true h)]
  unfold State.takeHostCall
  split <;> exact ⟨rfl, rfl, rfl, rfl⟩

theorem State.timed_of_no_tick (h : ¬ s.params.timerIntervalNs < s.hostCall.now.toNat - s.lastTimerTick.toNat) :
    s.timed.dt = s.dt ∧ s.timed.st = s.st ∧ s.timed.lastTimerTick = s.lastTimerTick ∧ s.timed.toneOn = false := by
  unfold State.timed State.timerPart
  rw [s.timerGate_beginCycle, if_neg (fun e => h (of_decide_eq_true e))]
  unfold State.takeHostCall
  split <;> exact ⟨rfl, rfl, rfl, rfl⟩

theorem State.timed_instrGate :
    s.timed.instrGate s.hostCall.now = true ↔
      s.params.instrIntervalNs < s.hostCall.now.toNat - s.lastInstrTime.toNat := by
  rw [s.timed_eq]
  exact decide_eq_true_iff

/-! ### The key wait -/

/-- Everything a key wait can do: the key is stored, the core halts, or it stays blocked. -/
theorem State.keyWait_cases (x : Reg) :
    (∃ k, s.keyAnswer = .key k ∧
      s.keyWait x = { s.takeKeyAnswer.writeReg x (BitVec.ofNat 8 k.val) with waiting := none }) ∨
    (s.keyAnswer = .terminate ∧
      s.keyWait x = { s.takeKeyAnswer.raise .terminated none with waiting := none }) ∨
    (s.keyAnswer = .notYet ∧ s.keyWait x = { s.takeKeyAnswer with waiting := some x }) := by
  unfold State.keyWait
  split
  · exact .inl ⟨_, ‹_›, rfl⟩
  · exact .inr (.inl ⟨‹_›, rfl⟩)
  · exact .inr (.inr ⟨‹_›, rfl⟩)

/-! ### The meanings -/

/-- Every meaning answers a next state: a fatal condition is a state too (R230). -/
theorem exec_answers_next (i : Instr) : ∃ t, exec i s = .next t := by
  cases i with
  | ret => simp only [exec, execRet]; split <;> exact ⟨_, rfl⟩
  | call => simp only [exec, execCall]; split <;> exact ⟨_, rfl⟩
  | drw => simp only [exec, execDrw]; split <;> exact ⟨_, rfl⟩
  | bcd => simp only [exec, execBcd]; split <;> exact ⟨_, rfl⟩
  | storeRegs => simp only [exec, execStoreRegs]; split <;> exact ⟨_, rfl⟩
  | loadRegs => simp only [exec, execLoadRegs]; split <;> exact ⟨_, rfl⟩
  | _ => exact ⟨_, rfl⟩

/-! ### The step -/

theorem step_of_waiting {x : Reg} (h : s.waiting = some x) : step s = .next (s.keyWait x).endCycle := by
  simp [step, cycleOrWait, h]

theorem step_of_halted (hw : s.waiting = none) (h : s.halted = true) :
    step s = .next s.takeHostCall.haltedCycle := by
  simp [step, cycleOrWait, hw, cycle, h]

/-- A step of a running core that is not blocked is a cycle call: its gates decide what runs (R90). -/
theorem step_of_ready (h : s.ready) :
    step s =
      if s.timed.instrGate s.hostCall.now then finishCycle (instrStep s.hostCall.now s.timed)
      else .next s.timed.endCycle := by
  simp only [step, cycleOrWait, h.2, cycle, State.takeHostCall_halted, h.1, State.timed]
  rfl

theorem finishCycle_next (t : State) : finishCycle (.next t) = .next t.endCycle := rfl

/-- A step whose gate is open and whose word decodes runs that instruction. -/
theorem step_of_runsInstr {i : Instr} (h : s.runsInstr i) :
    step s = finishCycle (exec i (s.timed.advance s.hostCall.now)) := by
  obtain ⟨⟨hr, hg, hb⟩, hd⟩ := h
  rw [step_of_ready s hr, if_pos hg, instrStep, if_pos hb, hd]

/-- Everything a step can do: look at a key wait, repeat a halt, do nothing behind a shut instruction gate, halt at the
fetch, report a decode miss, or run an instruction. -/
theorem step_cases {s t : State} (h : step s = .next t) :
    (∃ x, s.waiting = some x ∧ t = (s.keyWait x).endCycle) ∨
    (s.waiting = none ∧ s.halted = true ∧ t = s.takeHostCall.haltedCycle) ∨
    (s.ready ∧ s.timed.instrGate s.hostCall.now = false ∧ t = s.timed.endCycle) ∨
    (s.ready ∧ s.timed.instrGate s.hostCall.now = true ∧ s.timed.pcInBounds = false ∧
      t = (s.timed.raise .pcOutOfBounds (some s.timed.pc.toNat)).endCycle) ∨
    (s.fetches ∧ (∃ e, decodeWord s.timed.fetchWord = .error e) ∧
      t = ((s.timed.advance s.hostCall.now).emitDecodeMiss s.timed.fetchWord s.timed.pc).endCycle) ∨
    (∃ i u, s.runsInstr i ∧ exec i (s.timed.advance s.hostCall.now) = .next u ∧ t = u.endCycle) := by
  cases hw : s.waiting with
  | some x =>
    rw [step_of_waiting s hw] at h
    exact .inl ⟨x, rfl, (Host.Outcome.next.inj h).symm⟩
  | none =>
    cases hh : s.halted with
    | true =>
      rw [step_of_halted s hw hh] at h
      exact .inr (.inl ⟨rfl, rfl, (Host.Outcome.next.inj h).symm⟩)
    | false =>
      have hr : s.ready := ⟨hh, hw⟩
      right; right
      rw [step_of_ready s hr] at h
      split at h
      · rename_i hg
        unfold instrStep at h
        split at h
        · rename_i hb
          split at h
          · rename_i i hd
            obtain ⟨u, e⟩ := exec_answers_next (s.timed.advance s.hostCall.now) i
            rw [e] at h
            exact .inr (.inr (.inr ⟨i, u, ⟨⟨hr, hg, hb⟩, hd⟩, e, (Host.Outcome.next.inj h).symm⟩))
          · exact .inr (.inr (.inl ⟨⟨hr, hg, hb⟩, ⟨_, ‹_›⟩, (Host.Outcome.next.inj h).symm⟩))
        · exact .inr (.inl ⟨hr, hg, Bool.eq_false_iff.2 ‹_›, (Host.Outcome.next.inj h).symm⟩)
      · exact .inl ⟨hr, Bool.eq_false_iff.2 ‹_›, (Host.Outcome.next.inj h).symm⟩

end Sys2Proof.Machine
end

