-- ==== Sys2Proof/Laws/Encoding.lean ====
section
/-! SUPPORT. The fields of a word as numbers (R71), the words of the formats as numbers (R72), the fields of an encoded
word, and the masked bits of a word (R74). -/

namespace Sys2Proof

/-! ### Fields of any word -/

theorem opClass_toNat (w : Word) : (opClass w).toNat = w.toNat / 4096 := by
  have := w.isLt
  simp only [opClass, BitVec.extractLsb'_toNat, Nat.shiftRight_eq_div_pow]
  omega

theorem fieldX_val (w : Word) : (fieldX w).val = w.toNat / 256 % 16 := by
  change (w.extractLsb' 8 4).toNat = _
  simp only [BitVec.extractLsb'_toNat, Nat.shiftRight_eq_div_pow]

theorem fieldY_val (w : Word) : (fieldY w).val = w.toNat / 16 % 16 := by
  change (w.extractLsb' 4 4).toNat = _
  simp only [BitVec.extractLsb'_toNat, Nat.shiftRight_eq_div_pow]

theorem fieldN_toNat (w : Word) : (fieldN w).toNat = w.toNat % 16 := by
  simp only [fieldN, BitVec.extractLsb'_toNat, Nat.shiftRight_zero]

theorem fieldNN_toNat (w : Word) : (fieldNN w).toNat = w.toNat % 256 := by
  simp only [fieldNN, BitVec.extractLsb'_toNat, Nat.shiftRight_zero]

theorem fieldNNN_toNat (w : Word) : (fieldNNN w).toNat = w.toNat % 4096 := by
  simp only [fieldNNN, BitVec.extractLsb'_toNat, Nat.shiftRight_zero]

/-! ### The formats as numbers -/

theorem encXY_toNat (c : BitVec 4) (x y : Reg) (d : BitVec 4) :
    (encXY c x y d).toNat = c.toNat * 4096 + x.val * 256 + y.val * 16 + d.toNat := by
  have hx : (BitVec.ofFin (w := 4) x).toNat < 2 ^ 4 := x.isLt
  have hy : (BitVec.ofFin (w := 4) y).toNat < 2 ^ 4 := y.isLt
  change ((c ++ BitVec.ofFin (w := 4) x ++ BitVec.ofFin (w := 4) y) ++ d).toNat = _
  rw [BitVec.toNat_append, BitVec.toNat_append, BitVec.toNat_append, ← Nat.shiftLeft_add_eq_or_of_lt d.isLt,
    ← Nat.shiftLeft_add_eq_or_of_lt hy, ← Nat.shiftLeft_add_eq_or_of_lt hx]
  simp only [Nat.shiftLeft_eq, BitVec.toNat_ofFin]
  omega

theorem encX_toNat (c : BitVec 4) (x : Reg) (nn : Byte) :
    (encX c x nn).toNat = c.toNat * 4096 + x.val * 256 + nn.toNat := by
  have hx : (BitVec.ofFin (w := 4) x).toNat < 2 ^ 4 := x.isLt
  change ((c ++ BitVec.ofFin (w := 4) x) ++ nn).toNat = _
  rw [BitVec.toNat_append, BitVec.toNat_append, ← Nat.shiftLeft_add_eq_or_of_lt nn.isLt,
    ← Nat.shiftLeft_add_eq_or_of_lt hx]
  simp only [Nat.shiftLeft_eq, BitVec.toNat_ofFin]
  omega

theorem encNNN_toNat (c : BitVec 4) (nnn : Addr12) : (encNNN c nnn).toNat = c.toNat * 4096 + nnn.toNat := by
  change (c ++ nnn).toNat = _
  rw [BitVec.toNat_append, ← Nat.shiftLeft_add_eq_or_of_lt nnn.isLt, Nat.shiftLeft_eq]

/-! ### Bytes of a word -/

theorem wordOfBytes_toNat (hi lo : Byte) : (wordOfBytes hi lo).toNat = hi.toNat * 256 + lo.toNat := by
  change (hi ++ lo).toNat = _
  rw [BitVec.toNat_append, ← Nat.shiftLeft_add_eq_or_of_lt lo.isLt, Nat.shiftLeft_eq]

theorem highByte_toNat (w : Word) : (highByte w).toNat = w.toNat / 256 := by
  have := w.isLt
  simp only [highByte, BitVec.extractLsb'_toNat, Nat.shiftRight_eq_div_pow]
  omega

theorem lowByte_toNat (w : Word) : (lowByte w).toNat = w.toNat % 256 := by
  simp only [lowByte, BitVec.extractLsb'_toNat, Nat.shiftRight_zero]

/-- A word's two bytes make the word again (R56). -/
@[simp] theorem wordOfBytes_bytes (w : Word) : wordOfBytes (highByte w) (lowByte w) = w := by
  apply BitVec.eq_of_toNat_eq
  rw [wordOfBytes_toNat, highByte_toNat, lowByte_toNat]
  omega

/-! ### Fields of an encoded word -/

@[simp] theorem opClass_encXY (c : BitVec 4) (x y : Reg) (d : BitVec 4) : opClass (encXY c x y d) = c := by
  apply BitVec.eq_of_toNat_eq
  rw [opClass_toNat, encXY_toNat]
  have := x.isLt; have := y.isLt; have := d.isLt
  omega

@[simp] theorem fieldX_encXY (c : BitVec 4) (x y : Reg) (d : BitVec 4) : fieldX (encXY c x y d) = x := by
  apply Fin.ext
  rw [fieldX_val, encXY_toNat]
  have := x.isLt; have := y.isLt; have := d.isLt
  omega

@[simp] theorem fieldY_encXY (c : BitVec 4) (x y : Reg) (d : BitVec 4) : fieldY (encXY c x y d) = y := by
  apply Fin.ext
  rw [fieldY_val, encXY_toNat]
  have := y.isLt; have := d.isLt
  omega

@[simp] theorem fieldN_encXY (c : BitVec 4) (x y : Reg) (d : BitVec 4) : fieldN (encXY c x y d) = d := by
  apply BitVec.eq_of_toNat_eq
  rw [fieldN_toNat, encXY_toNat]
  have := d.isLt
  omega

@[simp] theorem opClass_encX (c : BitVec 4) (x : Reg) (nn : Byte) : opClass (encX c x nn) = c := by
  apply BitVec.eq_of_toNat_eq
  rw [opClass_toNat, encX_toNat]
  have := x.isLt; have := nn.isLt
  omega

@[simp] theorem fieldX_encX (c : BitVec 4) (x : Reg) (nn : Byte) : fieldX (encX c x nn) = x := by
  apply Fin.ext
  rw [fieldX_val, encX_toNat]
  have := x.isLt; have := nn.isLt
  omega

@[simp] theorem fieldNN_encX (c : BitVec 4) (x : Reg) (nn : Byte) : fieldNN (encX c x nn) = nn := by
  apply BitVec.eq_of_toNat_eq
  rw [fieldNN_toNat, encX_toNat]
  have := nn.isLt
  omega

@[simp] theorem opClass_encNNN (c : BitVec 4) (nnn : Addr12) : opClass (encNNN c nnn) = c := by
  apply BitVec.eq_of_toNat_eq
  rw [opClass_toNat, encNNN_toNat]
  have := nnn.isLt
  omega

@[simp] theorem fieldNNN_encNNN (c : BitVec 4) (nnn : Addr12) : fieldNNN (encNNN c nnn) = nnn := by
  apply BitVec.eq_of_toNat_eq
  rw [fieldNNN_toNat, encNNN_toNat]
  have := nnn.isLt
  omega

/-! ### Masked bits -/

theorem nat_and_split (a m : Nat) : a &&& m = ((a / 256) &&& (m / 256)) * 256 + ((a % 256) &&& (m % 256)) := by
  have hd : (a &&& m) / 2 ^ 8 = (a / 2 ^ 8) &&& (m / 2 ^ 8) := Nat.and_div_two_pow ..
  have hm : (a &&& m) % 2 ^ 8 = (a % 2 ^ 8) &&& (m % 2 ^ 8) := Nat.and_mod_two_pow ..
  have := Nat.div_add_mod (a &&& m) (2 ^ 8)
  simp only [Nat.reducePow] at hd hm this
  omega

theorem byte_and_highNibble (a : Nat) (h : a < 256) : a &&& 0xF0 = a / 16 * 16 := by
  have all : ∀ k l : Fin 16, (k.val * 16 + l.val) &&& 0xF0 = k.val * 16 := by decide
  have := all ⟨a / 16, by omega⟩ ⟨a % 16, by omega⟩
  simpa only [Nat.div_add_mod'] using this

theorem byte_and_lowNibble (a : Nat) : a &&& 0x0F = a % 16 := Nat.and_two_pow_sub_one_eq_mod a 4

theorem byte_and_all (a : Nat) (h : a < 256) : a &&& 0xFF = a := by
  rw [show (0xFF : Nat) = 2 ^ 8 - 1 from rfl, Nat.and_two_pow_sub_one_eq_mod]
  omega

/-- The bits `F000` fixes: the class. -/
theorem and_F000_toNat (w : Word) : (w &&& 0xF000).toNat = w.toNat / 4096 * 4096 := by
  have := w.isLt
  rw [BitVec.toNat_and, nat_and_split]
  change (w.toNat / 256 &&& 0xF0) * 256 + (w.toNat % 256 &&& 0x00) = _
  have := byte_and_highNibble (w.toNat / 256) (by omega)
  rw [Nat.and_zero]
  omega

/-- The bits `F00F` fixes: the class and `N`. -/
theorem and_F00F_toNat (w : Word) : (w &&& 0xF00F).toNat = w.toNat / 4096 * 4096 + w.toNat % 16 := by
  have := w.isLt
  rw [BitVec.toNat_and, nat_and_split]
  change (w.toNat / 256 &&& 0xF0) * 256 + (w.toNat % 256 &&& 0x0F) = _
  have := byte_and_highNibble (w.toNat / 256) (by omega)
  have := byte_and_lowNibble (w.toNat % 256)
  omega

/-- The bits `F0FF` fixes: the class and `NN`. -/
theorem and_F0FF_toNat (w : Word) : (w &&& 0xF0FF).toNat = w.toNat / 4096 * 4096 + w.toNat % 256 := by
  have := w.isLt
  rw [BitVec.toNat_and, nat_and_split]
  change (w.toNat / 256 &&& 0xF0) * 256 + (w.toNat % 256 &&& 0xFF) = _
  have := byte_and_highNibble (w.toNat / 256) (by omega)
  have := byte_and_all (w.toNat % 256) (by omega)
  omega

/-- Every bit of the word is fixed by `FFFF`. -/
theorem and_FFFF_toNat (w : Word) : (w &&& 0xFFFF).toNat = w.toNat := by
  have := w.isLt
  rw [BitVec.toNat_and, nat_and_split]
  change (w.toNat / 256 &&& 0xFF) * 256 + (w.toNat % 256 &&& 0xFF) = _
  have := byte_and_all (w.toNat / 256) (by omega)
  have := byte_and_all (w.toNat % 256) (by omega)
  omega

end Sys2Proof
end

