-- ==== Sys2Proof/Laws/Frames.lean ====
section
/-! SUPPORT. The frame of every shared operation: what it may change, and that it changes nothing else. -/

namespace Sys2Proof.Machine

variable (s : State)

theorem Preserves.refl (m : MayChange) : Preserves m s s := by constructor <;> intros <;> rfl

theorem State.preserves_writeReg (x : Reg) (b : Byte) : Preserves { regs := fun r => r = x } s (s.writeReg x b) := by
  constructor
  · exact fun r h => s.readReg_writeReg_other h b
  all_goals intros; simp

theorem State.preserves_setI (a : Word) : Preserves { i := True } s (s.setI a) := by
  constructor
  · intros; simp
  · intros; simp
  · exact fun h => absurd trivial h
  all_goals intros; simp

theorem State.preserves_setPc (a : Word) : Preserves { pc := True } s (s.setPc a) := by
  constructor
  · intros; simp
  · intros; simp
  · intros; simp
  · exact fun h => absurd trivial h
  all_goals intros; simp

theorem State.preserves_skipIf (c : Bool) : Preserves { pc := True } s (s.skipIf c) := by
  cases c
  · exact Preserves.refl s _
  · exact s.preserves_setPc _

theorem State.preserves_writeBytes (a : Nat) (bs : List Byte) :
    Preserves { bytes := fun p => a ≤ p ∧ p < a + bs.length } s (s.writeBytes a bs) := by
  constructor
  · intros; simp
  · intro p h
    exact s.readByte_writeBytes_outside a bs p (by simp only [not_and, not_lt] at h; omega)
  all_goals intros; simp

theorem State.preserves_loadBlock (x : Reg) : Preserves { regs := fun r => r ≤ x } s (s.loadBlock x) := by
  constructor
  · intro r h
    simp only at h
    simp [State.loadBlock_readReg, h]
  all_goals intros; simp

theorem State.preserves_writeResultThenFlag (x : Reg) (b : Byte) (f : Bool) :
    Preserves { regs := fun r => r = x ∨ r = 15 } s (s.writeResultThenFlag x b f) := by
  constructor
  · intro r h
    simp only [not_or] at h
    simp [State.writeResultThenFlag_readReg, h.1, h.2, Reg.vf]
  all_goals intros; simp [State.writeResultThenFlag]

theorem State.preserves_flagThenShift (x : Reg) (f g : Byte → Byte) :
    Preserves { regs := fun r => r = x ∨ r = 15 } s (s.flagThenShift x f g) := by
  constructor
  · intro r h
    simp only [not_or] at h
    simp [State.flagThenShift_readReg, h.1, h.2, Reg.vf]
  all_goals intros; simp [State.flagThenShift]

/-- Taking a fatal condition does exactly what R230 says. -/
theorem State.haltsWith_raise (c : HaltCause) (n : Option Nat) : HaltsWith c n s (s.raise c n) := by
  refine ⟨rfl, rfl, rfl, ?_⟩
  constructor
  all_goals first
    | exact fun h => absurd trivial h
    | (intros; simp)

theorem State.haltsWith_raiseMemory :
    HaltsWith .memoryOutOfBounds (some (max s.i.toNat 4096)) s s.raiseMemory := s.haltsWith_raise _ _

end Sys2Proof.Machine
end

