-- ==== Sys2Proof/Laws/PerInstr.lean ====
section
/-! SUPPORT. The family `RowMatch`: the word of an instruction has the bits its row of the opcode table fixes (R74,
R75), whatever its operands. One lemma a constructor. -/

namespace Sys2Proof.Laws.RowMatch

/-- The word of `i` satisfies `(w & mask) == match` of its row (R74). -/
def Statement (i : Instr) : Prop := i.row.selects (encodeWord i) = true

theorem of_masked_toNat {i : Instr} (h : (encodeWord i &&& i.row.mask).toNat = i.row.pattern.toNat) : Statement i := by
  simpa [Statement, OpcodeRow.selects] using BitVec.eq_of_toNat_eq h

theorem cls : Statement .cls := of_masked_toNat (by decide)
theorem ret : Statement .ret := of_masked_toNat (by decide)
theorem jmp (nnn : Addr12) : Statement (.jmp nnn) := by
  refine of_masked_toNat ((and_F000_toNat _).trans ?_)
  rw [encodeWord, encNNN_toNat]
  have := nnn.isLt
  simp only [Instr.row, BitVec.reduceToNat]
  omega
theorem call (nnn : Addr12) : Statement (.call nnn) := by
  refine of_masked_toNat ((and_F000_toNat _).trans ?_)
  rw [encodeWord, encNNN_toNat]
  have := nnn.isLt
  simp only [Instr.row, BitVec.reduceToNat]
  omega
theorem seImm (x : Reg) (nn : Byte) : Statement (.seImm x nn) := by
  refine of_masked_toNat ((and_F000_toNat _).trans ?_)
  rw [encodeWord, encX_toNat]
  have := x.isLt; have := nn.isLt
  simp only [Instr.row, BitVec.reduceToNat]
  omega
theorem sneImm (x : Reg) (nn : Byte) : Statement (.sneImm x nn) := by
  refine of_masked_toNat ((and_F000_toNat _).trans ?_)
  rw [encodeWord, encX_toNat]
  have := x.isLt; have := nn.isLt
  simp only [Instr.row, BitVec.reduceToNat]
  omega
theorem seReg (x y : Reg) : Statement (.seReg x y) := by
  refine of_masked_toNat ((and_F00F_toNat _).trans ?_)
  rw [encodeWord, encXY_toNat]
  have := x.isLt; have := y.isLt
  simp only [Instr.row, BitVec.reduceToNat]
  omega
theorem sneReg (x y : Reg) : Statement (.sneReg x y) := by
  refine of_masked_toNat ((and_F00F_toNat _).trans ?_)
  rw [encodeWord, encXY_toNat]
  have := x.isLt; have := y.isLt
  simp only [Instr.row, BitVec.reduceToNat]
  omega
theorem ldImm (x : Reg) (nn : Byte) : Statement (.ldImm x nn) := by
  refine of_masked_toNat ((and_F000_toNat _).trans ?_)
  rw [encodeWord, encX_toNat]
  have := x.isLt; have := nn.isLt
  simp only [Instr.row, BitVec.reduceToNat]
  omega
theorem addImm (x : Reg) (nn : Byte) : Statement (.addImm x nn) := by
  refine of_masked_toNat ((and_F000_toNat _).trans ?_)
  rw [encodeWord, encX_toNat]
  have := x.isLt; have := nn.isLt
  simp only [Instr.row, BitVec.reduceToNat]
  omega
theorem ldReg (x y : Reg) : Statement (.ldReg x y) := by
  refine of_masked_toNat ((and_F00F_toNat _).trans ?_)
  rw [encodeWord, encXY_toNat]
  have := x.isLt; have := y.isLt
  simp only [Instr.row, BitVec.reduceToNat]
  omega
theorem orReg (x y : Reg) : Statement (.orReg x y) := by
  refine of_masked_toNat ((and_F00F_toNat _).trans ?_)
  rw [encodeWord, encXY_toNat]
  have := x.isLt; have := y.isLt
  simp only [Instr.row, BitVec.reduceToNat]
  omega
theorem andReg (x y : Reg) : Statement (.andReg x y) := by
  refine of_masked_toNat ((and_F00F_toNat _).trans ?_)
  rw [encodeWord, encXY_toNat]
  have := x.isLt; have := y.isLt
  simp only [Instr.row, BitVec.reduceToNat]
  omega
theorem xorReg (x y : Reg) : Statement (.xorReg x y) := by
  refine of_masked_toNat ((and_F00F_toNat _).trans ?_)
  rw [encodeWord, encXY_toNat]
  have := x.isLt; have := y.isLt
  simp only [Instr.row, BitVec.reduceToNat]
  omega
theorem addReg (x y : Reg) : Statement (.addReg x y) := by
  refine of_masked_toNat ((and_F00F_toNat _).trans ?_)
  rw [encodeWord, encXY_toNat]
  have := x.isLt; have := y.isLt
  simp only [Instr.row, BitVec.reduceToNat]
  omega
theorem subReg (x y : Reg) : Statement (.subReg x y) := by
  refine of_masked_toNat ((and_F00F_toNat _).trans ?_)
  rw [encodeWord, encXY_toNat]
  have := x.isLt; have := y.isLt
  simp only [Instr.row, BitVec.reduceToNat]
  omega
theorem shr (x y : Reg) : Statement (.shr x y) := by
  refine of_masked_toNat ((and_F00F_toNat _).trans ?_)
  rw [encodeWord, encXY_toNat]
  have := x.isLt; have := y.isLt
  simp only [Instr.row, BitVec.reduceToNat]
  omega
theorem subnReg (x y : Reg) : Statement (.subnReg x y) := by
  refine of_masked_toNat ((and_F00F_toNat _).trans ?_)
  rw [encodeWord, encXY_toNat]
  have := x.isLt; have := y.isLt
  simp only [Instr.row, BitVec.reduceToNat]
  omega
theorem shl (x y : Reg) : Statement (.shl x y) := by
  refine of_masked_toNat ((and_F00F_toNat _).trans ?_)
  rw [encodeWord, encXY_toNat]
  have := x.isLt; have := y.isLt
  simp only [Instr.row, BitVec.reduceToNat]
  omega
theorem ldI (nnn : Addr12) : Statement (.ldI nnn) := by
  refine of_masked_toNat ((and_F000_toNat _).trans ?_)
  rw [encodeWord, encNNN_toNat]
  have := nnn.isLt
  simp only [Instr.row, BitVec.reduceToNat]
  omega
theorem jmpV0 (nnn : Addr12) : Statement (.jmpV0 nnn) := by
  refine of_masked_toNat ((and_F000_toNat _).trans ?_)
  rw [encodeWord, encNNN_toNat]
  have := nnn.isLt
  simp only [Instr.row, BitVec.reduceToNat]
  omega
theorem rnd (x : Reg) (nn : Byte) : Statement (.rnd x nn) := by
  refine of_masked_toNat ((and_F000_toNat _).trans ?_)
  rw [encodeWord, encX_toNat]
  have := x.isLt; have := nn.isLt
  simp only [Instr.row, BitVec.reduceToNat]
  omega
theorem drw (x y : Reg) (n : Nat) : Statement (.drw x y n) := by
  refine of_masked_toNat ((and_F000_toNat _).trans ?_)
  rw [encodeWord, encXY_toNat]
  have := x.isLt; have := y.isLt; have := (BitVec.ofNat 4 n).isLt
  simp only [Instr.row, BitVec.reduceToNat]
  omega
theorem skp (x : Reg) : Statement (.skp x) := by
  refine of_masked_toNat ((and_F0FF_toNat _).trans ?_)
  rw [encodeWord, encX_toNat]
  have := x.isLt
  simp only [Instr.row, BitVec.reduceToNat]
  omega
theorem sknp (x : Reg) : Statement (.sknp x) := by
  refine of_masked_toNat ((and_F0FF_toNat _).trans ?_)
  rw [encodeWord, encX_toNat]
  have := x.isLt
  simp only [Instr.row, BitVec.reduceToNat]
  omega
theorem ldFromDt (x : Reg) : Statement (.ldFromDt x) := by
  refine of_masked_toNat ((and_F0FF_toNat _).trans ?_)
  rw [encodeWord, encX_toNat]
  have := x.isLt
  simp only [Instr.row, BitVec.reduceToNat]
  omega
theorem ldDt (x : Reg) : Statement (.ldDt x) := by
  refine of_masked_toNat ((and_F0FF_toNat _).trans ?_)
  rw [encodeWord, encX_toNat]
  have := x.isLt
  simp only [Instr.row, BitVec.reduceToNat]
  omega
theorem ldSt (x : Reg) : Statement (.ldSt x) := by
  refine of_masked_toNat ((and_F0FF_toNat _).trans ?_)
  rw [encodeWord, encX_toNat]
  have := x.isLt
  simp only [Instr.row, BitVec.reduceToNat]
  omega
theorem ldKey (x : Reg) : Statement (.ldKey x) := by
  refine of_masked_toNat ((and_F0FF_toNat _).trans ?_)
  rw [encodeWord, encX_toNat]
  have := x.isLt
  simp only [Instr.row, BitVec.reduceToNat]
  omega
theorem addI (x : Reg) : Statement (.addI x) := by
  refine of_masked_toNat ((and_F0FF_toNat _).trans ?_)
  rw [encodeWord, encX_toNat]
  have := x.isLt
  simp only [Instr.row, BitVec.reduceToNat]
  omega
theorem ldF (x : Reg) : Statement (.ldF x) := by
  refine of_masked_toNat ((and_F0FF_toNat _).trans ?_)
  rw [encodeWord, encX_toNat]
  have := x.isLt
  simp only [Instr.row, BitVec.reduceToNat]
  omega
theorem bcd (x : Reg) : Statement (.bcd x) := by
  refine of_masked_toNat ((and_F0FF_toNat _).trans ?_)
  rw [encodeWord, encX_toNat]
  have := x.isLt
  simp only [Instr.row, BitVec.reduceToNat]
  omega
theorem storeRegs (x : Reg) : Statement (.storeRegs x) := by
  refine of_masked_toNat ((and_F0FF_toNat _).trans ?_)
  rw [encodeWord, encX_toNat]
  have := x.isLt
  simp only [Instr.row, BitVec.reduceToNat]
  omega
theorem loadRegs (x : Reg) : Statement (.loadRegs x) := by
  refine of_masked_toNat ((and_F0FF_toNat _).trans ?_)
  rw [encodeWord, encX_toNat]
  have := x.isLt
  simp only [Instr.row, BitVec.reduceToNat]
  omega

end Sys2Proof.Laws.RowMatch
end

