-- ==== Sys2Proof/Tests/Slice0.lean ====
section
/-! SUPPORT. The model's own tests: expected values are the spec's (the vectors T<n> of spec/95_test_vectors.md and the
patterns of R75), and for every statement with hypotheses a state or operands that meet them. -/

namespace Sys2Proof.Tests

open Sys2Proof.Machine

/-! ## Well-formedness, decoding, encoding -/

/-- The one check of `Instr.wf`: a row count of 16 has no encoding. -/
theorem test_wf_refuses_sixteen_rows : (Instr.drw 0 0 16).wf = false := by decide
theorem test_wf_takes_fifteen_rows : (Instr.drw 0 0 15).wf = true := by decide

/-! Words written out from the patterns of R75. -/

theorem test_decode_control :
    decode [0x00, 0xEE] = .ok (.ret, []) ∧ decode [0x12, 0x34] = .ok (.jmp 0x234, []) ∧
    decode [0x23, 0x00] = .ok (.call 0x300, []) ∧ decode [0x33, 0x2A] = .ok (.seImm 3 0x2A, []) ∧
    decode [0x43, 0x2A] = .ok (.sneImm 3 0x2A, []) ∧ decode [0x51, 0x20] = .ok (.seReg 1 2, []) ∧
    decode [0x91, 0x20] = .ok (.sneReg 1 2, []) ∧ decode [0xBF, 0xFF] = .ok (.jmpV0 0xFFF, []) := by decide
theorem test_decode_load_alu :
    decode [0x6A, 0x05] = .ok (.ldImm 10 5, []) ∧ decode [0x71, 0x03] = .ok (.addImm 1 3, []) ∧
    decode [0x8A, 0xB0] = .ok (.ldReg 10 11, []) ∧ decode [0x81, 0x21] = .ok (.orReg 1 2, []) ∧
    decode [0x81, 0x22] = .ok (.andReg 1 2, []) ∧ decode [0x81, 0x23] = .ok (.xorReg 1 2, []) := by decide
theorem test_decode_load_alu_more :
    decode [0x81, 0x24] = .ok (.addReg 1 2, []) ∧ decode [0x81, 0x25] = .ok (.subReg 1 2, []) ∧
    decode [0x81, 0x26] = .ok (.shr 1 2, []) ∧ decode [0x81, 0x27] = .ok (.subnReg 1 2, []) ∧
    decode [0x81, 0x2E] = .ok (.shl 1 2, []) ∧ decode [0xC3, 0x0F] = .ok (.rnd 3 15, []) := by decide
theorem test_decode_index_display_keypad :
    decode [0xA2, 0xF0] = .ok (.ldI 0x2F0, []) ∧ decode [0xF2, 0x1E] = .ok (.addI 2, []) ∧
    decode [0xF4, 0x29] = .ok (.ldF 4, []) ∧ decode [0xF3, 0x33] = .ok (.bcd 3, []) ∧
    decode [0xF2, 0x55] = .ok (.storeRegs 2, []) ∧ decode [0xF1, 0x65] = .ok (.loadRegs 1, []) ∧
    decode [0x00, 0xE0] = .ok (.cls, []) := by decide
theorem test_decode_index_display_keypad_more :
    decode [0xD1, 0x25] = .ok (.drw 1 2 5, []) ∧ decode [0xE2, 0x9E] = .ok (.skp 2, []) ∧
    decode [0xE2, 0xA1] = .ok (.sknp 2, []) ∧ decode [0xF5, 0x07] = .ok (.ldFromDt 5, []) ∧
    decode [0xF5, 0x15] = .ok (.ldDt 5, []) ∧ decode [0xF5, 0x18] = .ok (.ldSt 5, []) ∧
    decode [0xF3, 0x0A] = .ok (.ldKey 3, []) := by decide
/-- The decode misses of T21. -/
theorem test_decode_misses :
    ([0x0000, 0x0001, 0x00E1, 0x00EF, 0x00C1, 0x00FD, 0x00FF, 0x0123, 0x5121, 0x512F, 0x9121, 0x8128, 0x812D, 0x812F,
      0xE09F, 0xE19D, 0xE0A0, 0xF000, 0xF002, 0xF01F, 0xF075, 0xF085] : List Word).all
      (fun w => decide (decodeWord w = .error (.unrecognised w))) = true := by decide
theorem test_decode_truncated : decode [0x12] = .error .truncated := by decide
theorem test_encode_big_endian : encode (.jmp 0x234) = [0x12, 0x34] ∧ encode (.drw 1 2 5) = [0xD1, 0x25] := by decide
theorem test_asm : (Instr.drw 1 10 5).asm = "DRW V1, VA, 0x5" ∧ (Instr.storeRegs 15).asm = "LD [I], VF" ∧
    (Instr.jmp 0x234).asm = "JMP 0x234" := by decide
theorem test_table_word : decodeTableWord 16 0x8AB0 = some (.ldReg 10 11) ∧ decodeTableWord 16 0x0001 = none := by decide

/-! ## Helpers: small states, one step from each -/

/-- The state of the vectors: reset, with registers and `I` as listed. -/
def start (regs : List (Reg × Byte)) (i : Word) : State :=
  (regs.foldl (fun s p => s.writeReg p.1 p.2) State.reset).setI i

/-- Bytes placed in memory. -/
def State.bytes (s : State) (a : Nat) (bs : List Byte) : State := s.writeBytes a bs

/-- The host's next call. -/
def called (now : Time) (keys : Word) (s : State) : State :=
  { s with ports := { s.ports with calls := [⟨now, keys⟩] } }

/-- One fact about the state a step answers. -/
def after {α : Type} (o : Host.Outcome State Fault Refusal) (f : State → α) : Option α :=
  match o with
  | .next t => some (f t)
  | _ => none

/-- One step that fetches and runs the word `w`. -/
def ran {α : Type} (s : State) (w : Nat) (f : State → α) : Option α := after (step (s.withFetchWord 16 w)) f

/-- The cells that are on, in one row of the screen. -/
def lit (s : State) (y : Nat) : List Nat := (List.range 64).filter fun x => s.fb.cell y x

/-- What a halted state says: the cause's code and `PC`. -/
def halt (s : State) : Bool × BitVec 3 × Word := (s.halted, s.haltCause.code, s.pc)

/-! ## Control transfer (T30) -/

theorem test_ret : ran { State.reset with sp := 1, stack := [0x0204] } 0x00EE (fun t => (t.pc, t.sp, t.stack)) =
    some (0x204, 0, [0x0204]) := by decide
theorem test_ret_empty : ran State.reset 0x00EE (fun t => (halt t, t.sp)) = some ((true, 4, 0x202), 0) := by decide
theorem test_jmp : ran State.reset 0x1234 (·.pc) = some 0x234 := by decide
theorem test_call : ran { State.reset with pc := 0x202, sp := 15 } 0x2300
    (fun t => (t.pc, t.sp, t.stack.getD 15 0)) = some (0x300, 16, 0x0204) := by decide
theorem test_call_full : ran { State.reset with pc := 0x202, sp := 16 } 0x2300
    (fun t => (halt t, t.sp, t.stack)) = some ((true, 3, 0x204), 16, State.reset.stack) := by decide
theorem test_se_imm : ran (start [(3, 0x2A)] 0) 0x332A (·.pc) = some 0x204 ∧
    ran (start [(3, 0x2B)] 0) 0x332A (·.pc) = some 0x202 := by decide
theorem test_sne_imm : ran (start [(3, 0x2A)] 0) 0x432A (·.pc) = some 0x202 ∧
    ran (start [] 0) 0x432A (·.pc) = some 0x204 := by decide
theorem test_se_reg : ran (start [(1, 7), (2, 7)] 0) 0x5120 (·.pc) = some 0x204 ∧
    ran (start [(1, 7), (2, 8)] 0) 0x5120 (·.pc) = some 0x202 := by decide
theorem test_sne_reg : ran (start [(1, 7), (2, 8)] 0) 0x9120 (·.pc) = some 0x204 ∧
    ran (start [(1, 7), (2, 7)] 0) 0x9120 (·.pc) = some 0x202 := by decide
/-- Register 0, not the register of bits 11 to 8 (T30u). -/
theorem test_jmp_v0_register : ran (start [(0, 2), (2, 0x50)] 0) 0xB201 (·.pc) = some 0x203 := by decide
theorem test_jmp_v0_no_wrap : ran (start [(0, 0xFF)] 0) 0xBFFF (·.pc) = some 0x10FE := by decide

/-! ## Load, ALU, random (T1 to T3, T40 to T44) -/

theorem test_ld_imm : ran State.reset 0x6A05 (·.readReg 10) = some 0x05 := by decide
theorem test_add_imm_wraps : ran (start [(1, 0xFE), (15, 7)] 0) 0x7103 (fun t => (t.readReg 1, t.readReg 15)) =
    some (0x01, 7) := by decide
theorem test_ld_reg : ran (start [(10, 5), (11, 3)] 0) 0x8AB0 (fun t => (t.readReg 10, t.readReg 11)) = some (3, 3) := by
  decide
theorem test_or : ran (start [(1, 0xF0), (2, 0x0F), (15, 9)] 0) 0x8121 (fun t => (t.readReg 1, t.readReg 15)) =
    some (0xFF, 9) := by decide
theorem test_and : ran (start [(1, 0xF3), (2, 0x3F), (15, 9)] 0) 0x8122 (fun t => (t.readReg 1, t.readReg 15)) =
    some (0x33, 9) := by decide
theorem test_xor : ran (start [(1, 0xFF), (2, 0x0F), (15, 9)] 0) 0x8123 (fun t => (t.readReg 1, t.readReg 15)) =
    some (0xF0, 9) := by decide
theorem test_add_carry : ran (start [(1, 0xC8), (2, 0x64)] 0) 0x8124 (fun t => (t.readReg 1, t.readReg 15)) =
    some (0x2C, 1) := by decide
/-- The flag wins where `x` is `VF` (T41g). -/
theorem test_add_flag_wins : ran (start [(15, 0xF8), (1, 0x10)] 0) 0x8F14 (·.readReg 15) = some 1 := by decide
theorem test_sub_equal : ran (start [(1, 5), (2, 5)] 0) 0x8125 (fun t => (t.readReg 1, t.readReg 15)) =
    some (0, 0) := by decide
theorem test_sub_borrow : ran (start [(1, 0), (2, 1), (15, 1)] 0) 0x8125 (fun t => (t.readReg 1, t.readReg 15)) =
    some (0xFF, 0) := by decide
theorem test_shr : ran (start [(1, 5), (2, 0xFF)] 0) 0x8126 (fun t => (t.readReg 1, t.readReg 15)) = some (2, 1) := by
  decide
theorem test_shr_flag_shifted_out : ran (start [(15, 0xFF)] 0) 0x8F06 (·.readReg 15) = some 0 := by decide
theorem test_subn : ran (start [(1, 0x0A), (2, 3)] 0) 0x8127 (fun t => (t.readReg 1, t.readReg 15)) =
    some (0xF9, 0) := by decide
theorem test_subn_old_flag : ran (start [(1, 4), (15, 9)] 0) 0x81F7 (fun t => (t.readReg 1, t.readReg 15)) =
    some (5, 1) := by decide
theorem test_shl : ran (start [(1, 0x81)] 0) 0x810E (fun t => (t.readReg 1, t.readReg 15)) = some (2, 1) := by decide
theorem test_shl_flag_doubled : ran (start [(15, 0xFF)] 0) 0x8F0E (·.readReg 15) = some 2 := by decide
theorem test_rnd : ran { State.reset with ports := { Ports.initial with randBytes := [0xA7] } } 0xC30F
    (·.readReg 3) = some 7 := by decide

/-! ## Index register and memory (T7, T50) -/

theorem test_ld_i : ran State.reset 0xAFFF (·.i) = some 0x0FFF := by decide
theorem test_add_i_no_flag : ran (start [(2, 1), (15, 5)] 0x0FFF) 0xF21E (fun t => (t.i, t.readReg 15)) =
    some (0x1000, 5) := by decide
theorem test_add_i_wraps : ran (start [(2, 0xFF)] 0xFF80) 0xF21E (·.i) = some 0x007F := by decide
theorem test_ld_f : ran (start [(4, 0xFF)] 0) 0xF429 (·.i) = some 0x04FB := by decide
theorem test_bcd : ran (start [(3, 156)] 0x300) 0xF333
    (fun t => (t.readByte 0x300, t.readByte 0x301, t.readByte 0x302, t.i)) = some (1, 5, 6, 0x300) := by decide
theorem test_bcd_past_end : ran (start [(3, 255)] 4094) 0xF333 (fun t => (halt t, t.mem)) =
    some ((true, 5, 0x202), [(0x200, 0xF3), (0x201, 0x33)]) := by decide
theorem test_store_regs : ran (start [(0, 0x11), (1, 0x22), (2, 0x33), (3, 0x44)] 0x400) 0xF255
    (fun t => (t.readByte 0x402, t.readByte 0x403, t.i)) = some (0x33, 0, 0x400) := by decide
theorem test_store_regs_past_end : ran (start [(0, 0x11), (1, 0x22)] 0xFFF) 0xF155
    (fun t => (t.ports.status, t.readByte 0xFFF)) = some (some (.fatal .memoryOutOfBounds (some 4096)), 0) := by decide
/-- The whole register file from the glyphs, `VF` as data (T50aa). -/
theorem test_load_regs : ran State.reset 0xFF65 (fun t => (t.readReg 0, t.readReg 14, t.readReg 15)) =
    some (0xF0, 0xF0, 0xF0) ∧ ran State.reset 0xFF65 (fun t => (t.readReg 5, t.readReg 6)) = some (0x20, 0x60) := by
  decide
theorem test_load_regs_past_end : ran (start [(0, 1), (1, 2)] 0xFFF) 0xF165
    (fun t => (halt t, t.readReg 0, t.readReg 1)) = some ((true, 5, 0x202), 1, 2) := by decide

/-! ## Display (T4, T60) -/

/-- Both edges clip (T60b). -/
theorem test_drw_clips : ran (State.bytes (start [(0, 63), (1, 31)] 0x300) 0x300 [0xFF, 0xFF]) 0xD012
    (fun t => (lit t 31, lit t 0, t.readReg 15, t.displayDirty)) = some ([63], [], 0, true) := by decide
/-- A row past the end of memory halts before `VF` is cleared (T60k). -/
theorem test_drw_past_end : ran (start [(15, 7)] 0xFFE) 0xD013
    (fun t => (halt t, t.readReg 15, t.displayDirty)) = some ((true, 5, 0x202), 7, false) := by decide
theorem test_cls : ran { (start [(15, 3)] 0) with fb := Framebuffer.blank.setCell 3 4 true } 0x00E0
    (fun t => (lit t 3, t.displayCleared, t.displayDirty, t.readReg 15)) = some ([], true, false, 3) := by decide

/-! ## Keypad and timer transfers (T70) -/

theorem test_skp : ran { (start [(2, 5)] 0) with ports := { Ports.initial with keys := 0x0220 } } 0xE29E (·.pc) =
    some 0x204 := by decide
/-- No masking of the register to four bits (T70c, T70h). -/
theorem test_skp_above_fifteen : ran { (start [(2, 0x15)] 0) with ports := { Ports.initial with keys := 0x0020 } } 0xE29E
    (·.pc) = some 0x202 := by decide
theorem test_sknp : ran { (start [(2, 0x15)] 0) with ports := { Ports.initial with keys := 0x0020 } } 0xE2A1
    (·.pc) = some 0x204 := by decide
theorem test_ld_key : ran { State.reset with dt := 9, ports := { Ports.initial with keyAnswers := [.key 11] } } 0xF30A
    (fun t => (t.readReg 3, t.pc, t.dt)) = some (0x0B, 0x202, 9) := by decide
theorem test_ld_key_terminate :
    ran { (start [(3, 7)] 0) with ports := { Ports.initial with keyAnswers := [.terminate] } } 0xF30A
      (fun t => (halt t, t.readReg 3)) = some ((true, 2, 0x202), 7) := by decide
theorem test_ld_from_dt : ran { State.reset with dt := 0x2A } 0xF507 (fun t => (t.readReg 5, t.dt)) =
    some (0x2A, 0x2A) := by decide
theorem test_ld_dt : ran (start [(5, 0x3C)] 0) 0xF515 (fun t => (t.dt, t.st)) = some (0x3C, 0) := by decide
theorem test_ld_st : ran (start [(5, 5)] 0) 0xF518 (fun t => (t.st, t.dt, t.toneOn)) = some (5, 0, false) := by decide

/-! ## Fetch, cycle, halting (T9, T10, T20, T80 to T84) -/

theorem test_decode_miss : ran State.reset 0x0001 (fun t => (t.pc, t.ports.diagnostic, t.ports.status)) =
    some (0x202, some ⟨0x0001, 0x0200⟩, some .running) := by decide
theorem test_odd_pc : ran { State.reset with pc := 0x201 } 0x6007 (fun t => (t.readReg 0, t.pc)) = some (7, 0x203) := by
  decide
theorem test_fetch_at_4094 : after (step (called 2000000 0 { State.reset with pc := 4094 }))
    (fun t => (t.pc, t.halted, t.ports.diagnostic)) = some (4096, false, some ⟨0, 0x0FFE⟩) := by decide
theorem test_fetch_at_4096 : after (step (called 2000000 0 { State.reset with pc := 4096 }))
    (fun t => (halt t, t.lastInstrTime, t.ports.status)) =
      some ((true, 1, 4096), 0, some (.fatal .pcOutOfBounds (some 4096))) := by decide
/-- T9, the second call: the cause without the recorded value, and nothing changed. -/
theorem test_halted_again :
    after (step (called 4000000 0 { State.reset with pc := 4096, halted := true, haltCause := .pcOutOfBounds }))
      (fun t => (halt t, t.lastTimerTick, t.ports.status)) =
        some ((true, 1, 4096), 0, some (.fatal .pcOutOfBounds none)) := by decide
theorem test_instr_gate_strict :
    after (step (called 1000000 0 State.reset)) (fun t => (t.pc, t.lastInstrTime)) = some (0x200, 0) ∧
    after (step (called 1000001 0 State.reset)) (fun t => (t.pc, t.lastInstrTime)) = some (0x202, 1000001) := by decide
theorem test_timer_gate_strict :
    after (step (called 16666667 0 { State.reset with dt := 5 })) (fun t => (t.dt, t.lastTimerTick)) = some (5, 0) ∧
    after (step (called 16666668 0 { State.reset with dt := 5 })) (fun t => (t.dt, t.lastTimerTick)) =
      some (4, 16666668) := by decide
/-- One decay however long the elapsed time, and the tone flag from `ST` after it (T6, T81). -/
theorem test_tone_pulse :
    after (step (called 10000000000 0 { State.reset with st := 2 })) (fun t => (t.st, t.toneOn)) = some (1, true) ∧
    after (step (called 10000000000 0 { State.reset with st := 1 })) (fun t => (t.st, t.toneOn)) = some (0, false) := by
  decide
/-- T82a: the decay comes first. -/
theorem test_both_gates :
    after (step (called 20000000 0 (State.bytes { State.reset with dt := 5 } 0x200 [0xF1, 0x07])))
      (fun t => (t.readReg 1, t.dt)) = some (4, 4) := by decide
/-- T84: a timestamp before `T_RESET` elapses nothing. -/
theorem test_host_time_back :
    after (step (called 50000000 0 { State.reset with lastTimerTick := 100000000, lastInstrTime := 100000000 }))
      (fun t => (t.pc, t.lastTimerTick)) = some (0x200, 100000000) := by decide
/-- A blocked wait that is answered completes its instruction and its cycle (R202). -/
theorem test_blocked_wait :
    after (step { State.reset with waiting := some 3, ports := { Ports.initial with keyAnswers := [.key 11] } })
      (fun t => (t.readReg 3, t.waiting, t.ports.status)) = some (0x0B, none, some .running) := by decide
theorem test_glyphs_at_reset :
    State.reset.readByte 0 = 0xF0 ∧ State.reset.readByte 0x32 = 0xF0 ∧ State.reset.readByte 79 = 0x80 ∧
    State.reset.readByte 80 = 0 ∧ State.reset.readByte 4095 = 0 := by decide
/-- Storing what an unlisted address holds lists nothing. -/
theorem test_memory_canonical : (State.bytes (State.bytes State.reset 0x300 [7]) 0x300 [0]).mem = [] ∧
    (State.bytes State.reset 0 [0xF0]).mem = [] ∧ (State.bytes State.reset 4096 [1]).mem = [] := by decide

/-! ## Witnesses: for each statement with hypotheses, values that meet them all -/

/-- The state just before a cycle whose instruction gate opens on the word `w` at 0x200. -/
def about (w : Nat) (s : State) : State := s.withFetchWord 16 w

theorem witness_DecodingUndoesEncoding : ∃ i : Instr, i.wf = true := ⟨.drw 15 15 15, by decide⟩
theorem witness_EncodingUndoesDecoding : decodeWord 0xDFFF = .ok (.drw 15 15 15) := by decide
theorem witness_DecoderFollowsOpcodeTable :
    decodeWord 0xF065 = .ok (.loadRegs 0) ∧
    ((Instr.loadRegs 0).row ∈ opcodeTable ∧ (Instr.loadRegs 0).row.selects 0xF065 = true) ∧
    (∀ r ∈ opcodeTable, r.selects 0xF075 = false) := by decide
theorem witness_StepFetchesAdvancesAndDispatches :
    4095 ≤ ({ State.reset with pc := 4095 } : State).pc.toNat ∧
    (let s := State.bytes { State.reset with pc := 4094 } 4094 [0x12, 0x34]
     s.pc.toNat ≤ 4094 ∧
        decodeWord (wordOfBytes (s.readByte s.pc.toNat) (s.readByte (s.pc.toNat + 1))) = .ok (.jmp 0x234)) ∧
    (let s : State := { State.reset with pc := 4094 }
     s.pc.toNat ≤ 4094 ∧
        decodeWord (wordOfBytes (s.readByte s.pc.toNat) (s.readByte (s.pc.toNat + 1))) = .error (.unrecognised 0)) := by
  decide
theorem witness_StepRunsTheDecodedInstruction :
    let s := about 0x1234 { State.reset with pc := 4094 }
    s.ready ∧ s.pc.toNat ≤ 4094 ∧ s.params.instrIntervalNs < s.hostCall.now.toNat - s.lastInstrTime.toNat ∧
      decode [s.readByte s.pc.toNat, s.readByte (s.pc.toNat + 1)] = .ok (.jmp 0x234, []) :=
  ⟨⟨by decide, by decide⟩, by decide, by decide, by decide⟩
theorem witness_QuietCycleOnlyClearsFlags :
    let s := called 1000000 0 State.reset
    s.ready ∧ s.hostCall.now.toNat - s.lastTimerTick.toNat ≤ s.params.timerIntervalNs ∧
      s.hostCall.now.toNat - s.lastInstrTime.toNat ≤ s.params.instrIntervalNs :=
  ⟨⟨by decide, by decide⟩, by decide, by decide⟩
theorem witness_TimerGateDecaysOnce :
    let s := called 16666668 0 { State.reset with lastInstrTime := 15666668 }
    s.ready ∧ s.params.timerIntervalNs < s.hostCall.now.toNat - s.lastTimerTick.toNat ∧
      s.hostCall.now.toNat - s.lastInstrTime.toNat ≤ s.params.instrIntervalNs :=
  ⟨⟨by decide, by decide⟩, by decide, by decide⟩
/-- States of a cycle in which both gates open on the word. -/
def bothGates (hi lo : Byte) : State := called 16666668 0 (State.bytes { State.reset with dt := 2, st := 2 } 0x200 [hi, lo])
theorem witness_TimerGateComesFirst :
    16666667 < (bothGates 0xF1 0x07).hostCall.now.toNat - (bothGates 0xF1 0x07).lastTimerTick.toNat ∧
    (bothGates 0xF1 0x07).runsInstr (.ldFromDt 1) ∧ (bothGates 0xF1 0x15).runsInstr (.ldDt 1) ∧
    (bothGates 0xF1 0x18).runsInstr (.ldSt 1) :=
  ⟨by decide, ⟨⟨⟨by decide, by decide⟩, by decide, by decide⟩, by decide⟩,
    ⟨⟨⟨by decide, by decide⟩, by decide, by decide⟩, by decide⟩,
    ⟨⟨⟨by decide, by decide⟩, by decide, by decide⟩, by decide⟩⟩
theorem witness_UnrecognisedWordIsReportedAndSkipped :
    let s := called 1000001 0 { State.reset with pc := 4094 }
    s.fetches ∧ decodeWord s.timed.fetchWord = .error (.unrecognised 0) :=
  ⟨⟨⟨by decide, by decide⟩, by decide, by decide⟩, by decide⟩
theorem witness_FetchPastMemoryHalts :
    let s := called 1000001 0 { State.reset with pc := 4095 }
    s.ready ∧ 4095 ≤ s.pc.toNat ∧ s.params.instrIntervalNs < s.hostCall.now.toNat - s.lastInstrTime.toNat :=
  ⟨⟨by decide, by decide⟩, by decide, by decide⟩
theorem witness_HaltedCoreNeverChanges :
    let s : State := { State.reset with halted := true, haltCause := .stackUnderflow }
    s.halted = true ∧ s.waiting = none := by decide
/-- A step that runs `SKP V2` or `SKNP V2` with key 5 in the call's snapshot, `V2` on each side of 15. -/
def skipping (lo key : Byte) : State := called 1000001 0x0020 (State.bytes (start [(2, key)] 0) 0x200 [0xE2, lo])
theorem witness_SkipTestsKeySnapshot :
    (skipping 0x9E 5).runsInstr (.skp 2) ∧ (skipping 0x9E 16).runsInstr (.skp 2) ∧
    (skipping 0xA1 5).runsInstr (.sknp 2) ∧ (skipping 0xA1 16).runsInstr (.sknp 2) :=
  ⟨⟨⟨⟨by decide, by decide⟩, by decide, by decide⟩, by decide⟩,
    ⟨⟨⟨by decide, by decide⟩, by decide, by decide⟩, by decide⟩,
    ⟨⟨⟨by decide, by decide⟩, by decide, by decide⟩, by decide⟩,
    ⟨⟨⟨by decide, by decide⟩, by decide, by decide⟩, by decide⟩⟩
/-- The snapshot of the call, not the one the last cycle left in the ports. -/
theorem test_skip_reads_this_call :
    after (step { (skipping 0x9E 5) with ports := { (skipping 0x9E 5).ports with keys := 0 } }) (·.pc) = some 0x204 ∧
    after (step (skipping 0xA1 16)) (·.pc) = some 0x204 := by decide
theorem witness_CallPushesReturnAddress :
    (let s : State := { State.reset with sp := 15 }
     s.stack.length = s.params.stackDepth ∧ s.sp ≤ s.params.stackDepth ∧ s.sp < s.params.stackDepth) ∧
    (let s : State := { State.reset with sp := 16 }
     s.stack.length = s.params.stackDepth ∧ s.sp ≤ s.params.stackDepth ∧ s.sp = s.params.stackDepth) := by decide
theorem witness_ReturnPopsAddress :
    (let s : State := { State.reset with sp := 16 }
     s.stack.length = s.params.stackDepth ∧ s.sp ≤ s.params.stackDepth ∧ 0 < s.sp) ∧
    (State.reset.stack.length = State.reset.params.stackDepth ∧ State.reset.sp ≤ State.reset.params.stackDepth ∧
      State.reset.sp = 0) := by decide
theorem witness_ReturnAfterCallComesBack :
    let s : State := { State.reset with sp := 15 }
    s.stack.length = s.params.stackDepth ∧ s.sp < s.params.stackDepth := by decide
theorem witness_ProgramCounterSources :
    exec (.jmpV0 0xFFF) State.reset = .next (State.reset.setPc (State.reset.indexedTarget 0xFFF)) := rfl
theorem witness_RandomIsMaskedDraw :
    ({ State.reset with ports := { Ports.initial with randBytes := [0xA7] } } : State).ports.randBytes = 0xA7 :: [] ∧
    State.reset.ports.randBytes = [] := by decide
theorem witness_FlagRegisterWriters :
    ∃ t, exec (.subReg 1 2) (start [(1, 1)] 0) = .next t ∧ t.readReg 15 ≠ (start [(1, 1)] 0).readReg 15 :=
  ⟨_, rfl, by decide⟩
theorem witness_BcdStoresDecimalDigits :
    (Memory.wf (start [] 4093).params.glyphs (start [] 4093).mem = true ∧ (start [] 4093).i.toNat ≤ 4093) ∧
    (Memory.wf (start [] 4094).params.glyphs (start [] 4094).mem = true ∧ 4093 < (start [] 4094).i.toNat) := by decide
theorem witness_BlockStoreCopiesRegisters :
    (Memory.wf (start [] 4080).params.glyphs (start [] 4080).mem = true ∧
      (start [] 4080).i.toNat + (15 : Reg).val ≤ 4095) ∧
    (Memory.wf (start [] 4081).params.glyphs (start [] 4081).mem = true ∧
      4095 < (start [] 4081).i.toNat + (15 : Reg).val) := by decide
theorem witness_BlockLoadCopiesMemory :
    (start [] 4095).i.toNat + (0 : Reg).val ≤ 4095 ∧ 4095 < (start [] 4095).i.toNat + (1 : Reg).val := by decide
theorem witness_FetchSeesStoredBytes :
    let s : State := { (start [] 0x202) with pc := 0x202 }
    Memory.wf s.params.glyphs s.mem = true ∧ s.i.toNat + (1 : Reg).val ≤ 4095 ∧ (0 : Reg) ≤ 1 ∧
      s.pc.toNat = s.effAddr (0 : Reg).val ∧ s.pc.toNat + 1 = s.effAddr (1 : Reg).val := by decide
theorem witness_OnlyStoresChangeMemory :
    after (step (about 0xF155 (start [(1, 9)] 0xFFE))) (·.readByte 0xFFF) = some 9 ∧
    (about 0xF155 (start [(1, 9)] 0xFFE)).readByte 0xFFF = 0 ∧
    after (step (about 0xF133 (start [(1, 9)] 0xFFD))) (·.readByte 0xFFF) = some 9 := by decide
theorem witness_DrawXorsSprite :
    (let s := start [(0, 63), (1, 30)] 0xFFE; min 15 (32 - (s.readReg 1).toNat % 32) = 2 ∧ s.i.toNat + 2 ≤ 4096) ∧
    (let s := start [(0, 63), (1, 30)] 0xFFF; min 15 (32 - (s.readReg 1).toNat % 32) = 2 ∧ 4096 < s.i.toNat + 2) ∧
    (min 0 (32 - (State.reset.readReg 1).toNat % 32) = 0) := by decide
theorem witness_DrawingTwiceRestoresScreen :
    (start [(0, 63), (1, 30)] 0xFFE).accessFits ((start [(0, 63), (1, 30)] 0xFFE).visibleRows 1 15) = true := by decide
theorem witness_TransientFlagsHaveOneSource :
    (called 16666668 0 { State.reset with st := 2 }).ready ∧
    after (step (called 16666668 0 { State.reset with st := 2 })) (·.toneOn) = some true ∧
    after (step (about 0x00E0 State.reset)) (·.displayCleared) = some true ∧
    after (step (about 0xD000 State.reset)) (·.displayDirty) = some true :=
  ⟨⟨by decide, by decide⟩, by decide, by decide, by decide⟩
theorem witness_OnlyDrawAndClearChangeScreen :
    after (step (about 0xD011 State.reset)) (fun t => decide (t.fb ≠ (about 0xD011 State.reset).fb)) = some true := by
  decide
theorem witness_OnlyCallAndReturnMoveStack :
    after (step (about 0x2300 State.reset)) (·.sp) = some 1 ∧
    after (step (about 0x00EE { State.reset with sp := 1 })) (·.sp) = some 0 := by decide
/-- The states in which `NextKeyPress()` gives each answer. -/
def answered (a : Config.KeyAnswer) : State := { State.reset with ports := { Ports.initial with keyAnswers := [a] } }
theorem witness_KeyWaitStoresKeyHaltsOrBlocks :
    State.reset.ready ∧ State.reset.ports.keyAnswers = [] ∧
    ((answered (.key 15)).ready ∧ (answered (.key 15)).keyAnswer = .key 15) ∧
    ((answered .terminate).ready ∧ (answered .terminate).keyAnswer = .terminate) ∧
    ((answered .notYet).ready ∧ (answered .notYet).keyAnswer = .notYet) :=
  ⟨⟨rfl, rfl⟩, rfl, ⟨⟨rfl, rfl⟩, rfl⟩, ⟨⟨rfl, rfl⟩, rfl⟩, ⟨⟨rfl, rfl⟩, rfl⟩⟩
theorem witness_BlockedCoreOnlyWaits :
    ∀ a ∈ [Config.KeyAnswer.key 15, .terminate, .notYet],
      let s : State := { answered a with waiting := some 3 }
      s.waiting = some 3 ∧ s.halted = false ∧ s.keyAnswer = a := by decide
/-- Two states that differ in `ST`, a transient flag and the instruction time. -/
theorem witness_InstructionsDoNotReadTimeOrFlags :
    let s : State := State.reset
    let s' : State := { State.reset with st := 3, toneOn := true, lastInstrTime := 7 }
    s ≠ s' ∧ ({ s with st := 0, toneOn := false, lastInstrTime := 0 } : State) =
      { s' with st := 0, toneOn := false, lastInstrTime := 0 } := by decide
theorem witness_OnlyListedConditionsHalt :
    State.reset.ready ∧ ∃ t, exec .ret State.reset = .next t ∧ t.halted = true := ⟨⟨rfl, rfl⟩, _, rfl, rfl⟩
theorem reset_inv : State.reset.Inv :=
  ⟨by decide, by decide, by decide, by decide, by decide, by decide, by decide, by decide⟩
theorem witness_EveryStepKeepsInvariant :
    (called 1000001 0 State.reset).Inv ∧ ∃ t, step (called 1000001 0 State.reset) = .next t :=
  ⟨⟨by decide, by decide, by decide, by decide, by decide, by decide, by decide, by decide⟩, _, rfl⟩
theorem witness_ConstructionEstablishesInvariant : ∃ s, State.construct {} [0x12, 0x00] = some s := ⟨_, rfl⟩
theorem witness_TimeNeverRunsBack :
    let s := called 1000001 0 State.reset
    s.waiting = none ∧ s.lastTimerTick ≤ s.hostCall.now ∧ s.lastInstrTime ≤ s.hostCall.now ∧ ∃ t, step s = .next t :=
  ⟨rfl, by decide, by decide, _, rfl⟩
theorem witness_ParametersNeverChange : ∃ t, step (called 1000001 0 State.reset) = .next t := ⟨_, rfl⟩
theorem witness_LateDecayOpensInstructionGate :
    let s := called 16666668 0 State.reset
    s.params.instrIntervalNs < s.params.timerIntervalNs ∧ s.lastInstrTime ≤ s.lastTimerTick ∧
      s.timerGate s.hostCall.now = true := by decide
theorem witness_MemoryAtReset :
    (∃ s, State.construct {} (List.replicate 3584 0xFF) = some s) ∧ (79 < 4096 ∧ 80 < 4096 ∧ 511 < 4096 ∧ 4095 < 4096) :=
  ⟨⟨_, by rw [State.construct, if_pos (by rw [List.length_replicate]; decide)]⟩, by decide⟩
theorem witness_RegistersAtReset :
    (List.replicate 3584 (0xFF : Byte)).length ≤ 3584 ∧ 3584 < (List.replicate 3585 (0xFF : Byte)).length := by
  simp only [List.length_replicate]
  decide
/-- A machine built with a program, `LD V1, DT`, and the four clauses at the two boundaries of its first call. -/
theorem witness_NothingRunsBeforeTheFirstInterval :
    (∃ s, State.construct {} [0xF1, 0x07] = some s ∧ s.ready ∧ s.pc.toNat ≤ 4094) ∧
    (1000000 : Time).toNat ≤ (0 : Time).toNat + 1000000 ∧ (0 : Time).toNat + 1000000 < (1000001 : Time).toNat ∧
    (16666667 : Time).toNat ≤ (0 : Time).toNat + 16666667 ∧ (0 : Time).toNat + 16666667 < (16666668 : Time).toNat :=
  ⟨⟨_, rfl, ⟨rfl, rfl⟩, by decide⟩, by decide⟩
/-- Ready states whose step goes on, halts, blocks, and misses a decode. -/
theorem witness_CycleExchangesPortValues :
    (State.reset.ready ∧ (about 0xF30A (answered .notYet)).ready) ∧
    after (step (about 0x1234 State.reset)) (fun t => (t.halted, t.waiting)) = some (false, none) ∧
    after (step (about 0xF333 (start [] 0xFFFE))) (fun t => (t.halted, t.recordedValue)) = some (true, some 0xFFFE) ∧
    after (step (about 0xF30A (answered .notYet))) (fun t => (t.waiting, t.ports.status)) = some (some 3, none) ∧
    after (step (about 0x0001 State.reset)) (fun t => decide (t.ports.diagnostic = none)) = some false :=
  ⟨⟨⟨rfl, rfl⟩, by decide, by decide⟩, by decide, by decide, by decide, by decide⟩

end Sys2Proof.Tests
end

section
/-! No step writes a construction parameter (R6, R33): the key wait, the part of a cycle before its instruction
gate and every meaning leave `params` alone, and `step_cases` puts the step together from these. -/

namespace Sys2Proof.Machine

@[simp] theorem State.keyWait_params (s : State) (x : Reg) : (s.keyWait x).params = s.params := by
  obtain ⟨_, -, e⟩ | ⟨-, e⟩ | ⟨-, e⟩ := s.keyWait_cases x <;> simp [e]

@[simp] theorem State.timed_params (s : State) : s.timed.params = s.params := by simp [State.timed]

/-- A meaning with a fatal condition leaves the parameters alone when both its outcomes do. -/
theorem params_of_guarded {c : Prop} [Decidable c] {s t u v : State}
    (h : (if c then .next u else .next v : Host.Outcome State Fault Refusal) = .next t)
    (hu : u.params = s.params) (hv : v.params = s.params) : t.params = s.params := by
  split at h <;> obtain rfl := Host.Outcome.next.inj h <;> assumption

/-- No instruction writes a construction parameter. Six have a fatal condition and so two outcomes; every other is one
update of the state. -/
theorem exec_params {i : Instr} {s t : State} (h : exec i s = .next t) : t.params = s.params := by
  cases i with
  | ret | call | drw | bcd | storeRegs | loadRegs => exact params_of_guarded h (by simp) (by simp)
  | _ => obtain rfl := Host.Outcome.next.inj h; simp

/-- Settles O55, by the six things a step can do. -/
theorem parametersNeverChange : Obligations.ParametersNeverChange := by
  intro s t h
  obtain ⟨_, -, rfl⟩ | ⟨-, -, rfl⟩ | ⟨-, -, rfl⟩ | ⟨-, -, -, rfl⟩ | ⟨-, -, rfl⟩ | ⟨_, u, -, hu, rfl⟩ := step_cases h
  · simp -- a look at a key wait
  · simp -- a call on a halted core
  · simp -- the instruction gate is shut
  · simp -- the fetch is out of bounds
  · simp -- the word is no instruction
  · calc u.endCycle.params
      _ = u.params := u.endCycle_params
      _ = (s.timed.advance s.hostCall.now).params := exec_params hu
      _ = s.params := by simp

end Sys2Proof.Machine
end

section
/-! What one instruction can do to the state (R97), said once: `exec_effect`. Every claim about all instructions is then
a case split over these effects and opens no meaning again. -/

namespace Sys2Proof.Machine

/-- The six instructions that may skip the next word (R113 to R116, R200, R201). -/
def IsSkip (i : Instr) : Prop :=
  (∃ x nn, i = .seImm x nn ∨ i = .sneImm x nn) ∨ (∃ x y, i = .seReg x y ∨ i = .sneReg x y) ∨
    (∃ x, i = .skp x ∨ i = .sknp x)

/-- The effects an instruction can have on a state, each with the instructions it belongs to where a claim asks for
them. -/
inductive Effect (s : State) : Instr → State → Prop
  /-- A fatal condition is raised (R230). -/
  | halt {i : Instr} (cause : HaltCause) (info : Option Nat) (hc : cause ≠ .none) : Effect s i (s.raise cause info)
  /-- Only registers are written. -/
  | regs {i : Instr} (v : Vector Byte 16) : Effect s i { s with v := v }
  /-- Registers are written from a random draw. -/
  | random {i : Instr} (v : Vector Byte 16) : Effect s i { s.takeRandByte with v := v }
  /-- Only `I` is written. -/
  | index {i : Instr} (a : Word) : Effect s i (s.setI a)
  /-- Only the timers are written. -/
  | timers {i : Instr} (dt st : Byte) : Effect s i { s with dt := dt, st := st }
  /-- Only memory is written. -/
  | stores {i : Instr} (a : Nat) (bs : List Byte) : Effect s i (s.writeBytes a bs)
  /-- A skip, taken or not (R118). -/
  | skip {i : Instr} (hi : IsSkip i) (taken : Bool) : Effect s i (s.skipIf taken)
  /-- `JMP NNN` (R111). -/
  | jump (nnn : Addr12) : Effect s (.jmp nnn) (s.setPc (zextAddr nnn))
  /-- `JMP V0, NNN` (R117). -/
  | jumpV0 (nnn : Addr12) : Effect s (.jmpV0 nnn) (s.setPc (s.indexedTarget nnn))
  /-- `CALL NNN` where the stack has room (R112). -/
  | call (nnn : Addr12) (room : s.sp < s.params.stackDepth) : Effect s (.call nnn) (s.pushPc.setPc (zextAddr nnn))
  /-- `RET` with a live entry (R110). -/
  | ret (live : s.sp ≠ 0) : Effect s .ret s.popPc
  /-- `CLS` (R181). -/
  | clear : Effect s .cls { s.setFb Framebuffer.blank with displayCleared := true }
  /-- `DRW Vx, Vy, N` with its sprite in memory (R182). -/
  | draw (x y : Reg) (n : Nat) (fb : Framebuffer) (v : Vector Byte 16) :
    Effect s (.drw x y n) { s with fb := fb, v := v, displayDirty := true }
  /-- `LD Vx, K` (R202). -/
  | wait (x : Reg) : Effect s (.ldKey x) (s.keyWait x)

/-- A meaning with a fatal condition has an effect when both its outcomes are one. -/
theorem Effect.of_guarded {c : Prop} [Decidable c] {i : Instr} {s t u v : State}
    (h : (if c then .next u else .next v : Host.Outcome State Fault Refusal) = .next t)
    (hu : c → Effect s i u) (hv : ¬ c → Effect s i v) : Effect s i t := by
  split at h <;> obtain rfl := Host.Outcome.next.inj h
  · exact hu ‹_›
  · exact hv ‹_›

/-- A data access out of bounds is a fatal condition of its own (R225). -/
theorem Effect.raiseMemory {s : State} {i : Instr} : Effect s i s.raiseMemory := .halt _ _ (by decide)

theorem Effect.loadBlock {s : State} {i : Instr} (x : Reg) : Effect s i (s.loadBlock x) := by
  rw [s.loadBlock_eq]
  exact .regs _

/-- Every instruction has one of these effects. -/
theorem exec_effect {i : Instr} {s t : State} (h : exec i s = .next t) : Effect s i t := by
  cases i with
  | ret => exact .of_guarded h (fun _ => .halt _ _ (by decide)) .ret
  | call nnn => exact .of_guarded h (fun _ => .halt _ _ (by decide)) fun hfull => .call nnn (Nat.lt_of_not_le hfull)
  | drw x y n => exact .of_guarded h (fun _ => .draw x y n _ _) fun _ => .raiseMemory
  | bcd | storeRegs => exact .of_guarded h (fun _ => .stores _ _) fun _ => .raiseMemory
  | loadRegs x => exact .of_guarded h (fun _ => .loadBlock x) fun _ => .raiseMemory
  | cls => obtain rfl := Host.Outcome.next.inj h; exact .clear
  | jmp nnn => obtain rfl := Host.Outcome.next.inj h; exact .jump nnn
  | jmpV0 nnn => obtain rfl := Host.Outcome.next.inj h; exact .jumpV0 nnn
  | ldKey x => obtain rfl := Host.Outcome.next.inj h; exact .wait x
  | seImm | sneImm | seReg | sneReg | skp | sknp =>
    obtain rfl := Host.Outcome.next.inj h
    exact .skip (by simp [IsSkip]) _
  | ldI | addI | ldF => obtain rfl := Host.Outcome.next.inj h; exact .index _
  | ldDt | ldSt => obtain rfl := Host.Outcome.next.inj h; exact .timers _ _
  | rnd => obtain rfl := Host.Outcome.next.inj h; exact .random _
  | _ => obtain rfl := Host.Outcome.next.inj h; exact .regs _

/-- A key wait writes registers, the halt, the block and the ports, and nothing else. -/
theorem State.keyWait_eq (s : State) (x : Reg) :
    s.keyWait x =
      { s with
        v := (s.keyWait x).v, halted := (s.keyWait x).halted, haltCause := (s.keyWait x).haltCause,
        waiting := (s.keyWait x).waiting, ports := (s.keyWait x).ports } := by
  unfold State.keyWait
  split <;> rw [s.takeKeyAnswer_eq] <;> rfl

end Sys2Proof.Machine
end

section
/-! The invariant of R36 holds at construction and every step keeps it: the part of a cycle before its instruction gate,
the fetch, each effect of an instruction and each answer of a key wait keep it, and `step_cases` puts the step together
from these. -/

namespace Sys2Proof.Machine

theorem zextAddr_toNat (nnn : Addr12) : (zextAddr nnn).toNat = nnn.toNat := by
  have := nnn.isLt
  rw [zextAddr, BitVec.toNat_setWidth]
  omega

/-- An address field and a register byte never carry out of 16 bits (R117). -/
theorem State.indexedTarget_toNat (s : State) (nnn : Addr12) :
    (s.indexedTarget nnn).toNat = nnn.toNat + (s.readReg 0).toNat := by
  have := nnn.isLt
  have := (s.readReg 0).isLt
  rw [State.indexedTarget, BitVec.toNat_add, zextAddr_toNat, zextByte, BitVec.toNat_setWidth]
  omega

/-- Both bytes of the word at `PC` exist exactly up to 4094 (R95). -/
theorem State.pcInBounds_iff (s : State) : s.pcInBounds = true ↔ s.pc.toNat + 1 < 4096 := decide_eq_true_iff

/-- The address of the next word does not wrap for any `PC` a fetch leaves (R96). -/
theorem nextWord_toNat {a : Word} (h : a.toNat ≤ 4096) : (a + 2).toNat = a.toNat + 2 := by bv_omega

/-- `PC` is at most 4096 after the advance of a fetch that is in bounds (R96). -/
theorem State.advance_pc_le {s : State} (now : Time) (h : s.pcInBounds = true) : (s.advance now).pc.toNat ≤ 4096 := by
  rw [s.pcInBounds_iff] at h
  rw [State.advance_pc, nextWord_toNat (by omega)]
  omega

namespace State.Inv

variable {s : State}

/-- The invariant does not speak of the ports. -/
theorem with_ports (h : s.Inv) (p : Ports) : State.Inv { s with ports := p } := { h with }

theorem endCycle (h : s.Inv) : s.endCycle.Inv := by
  rw [s.endCycle_eq]
  exact h.with_ports _

theorem takeHostCall (h : s.Inv) : s.takeHostCall.Inv := by
  rw [s.takeHostCall_eq]
  exact h.with_ports _

theorem haltedCycle (h : s.Inv) : s.haltedCycle.Inv := h.with_ports _

/-- Taking a fatal condition keeps the invariant on a core that is not blocked. -/
theorem raise (h : s.Inv) (hw : s.waiting = none) {cause : HaltCause} (hc : cause ≠ .none) (info : Option Nat) :
    (s.raise cause info).Inv :=
  { h with
    haltCause := iff_of_true rfl hc
    blockedRuns := fun hb => absurd hw hb }

theorem timed (h : s.Inv) : s.timed.Inv := by
  rw [s.timed_eq]
  exact { h with displayFlags := by simp }

theorem advance (h : s.Inv) (now : Time) (hb : s.pcInBounds = true) : (s.advance now).Inv :=
  { h with programCounter := (advance_pc_le now hb).trans (by decide) }

/-- Every answer to a key wait keeps the invariant on a core that has not halted. -/
theorem keyWait (h : s.Inv) (hr : s.halted = false) (x : Reg) : (s.keyWait x).Inv := by
  have ht : s.takeKeyAnswer.Inv := by
    rw [s.takeKeyAnswer_eq]
    exact h.with_ports _
  obtain ⟨k, -, e⟩ | ⟨-, e⟩ | ⟨-, e⟩ := s.keyWait_cases x <;> rw [e]
  · exact { ht with blockedRuns := fun hb => absurd rfl hb }
  · exact { ht with
      haltCause := iff_of_true rfl nofun
      blockedRuns := fun hb => absurd rfl hb }
  · exact { ht with blockedRuns := fun _ => s.takeKeyAnswer_halted.trans hr }

theorem skipIf (h : s.Inv) (hpc : s.pc.toNat ≤ 4096) (taken : Bool) : (s.skipIf taken).Inv := by
  cases taken with
  | false => exact h
  | true =>
    refine { h with programCounter := ?_ }
    rw [State.skipIf, if_pos rfl, State.setPc_pc, nextWord_toNat hpc]
    omega

/-- A pushed return address is live afterwards; every older entry stays where it was (R112). -/
theorem call (h : s.Inv) (hpc : s.pc.toNat ≤ 4096) (room : s.sp < s.params.stackDepth) (nnn : Addr12) :
    (s.pushPc.setPc (zextAddr nnn)).Inv :=
  { h with
    stackLength := List.length_set.trans h.stackLength
    stackPointer := room
    liveEntries := by
      intro k hk
      have hlen := h.stackLength
      simp only [State.setPc_stack, State.setPc_sp, State.pushPc_stack, State.pushPc_sp] at hk ⊢
      by_cases e : s.sp = k
      · subst e
        simpa [List.getD_eq_getElem?_getD, hlen, room] using hpc
      · simpa [List.getD_eq_getElem?_getD, List.getElem?_set_ne e] using h.liveEntries k (by omega)
    programCounter := by
      have := nnn.isLt
      rw [State.setPc_pc, zextAddr_toNat]
      omega }

/-- The popped entry was live, so it is an address some `CALL` pushed (R110). -/
theorem ret (h : s.Inv) (live : s.sp ≠ 0) : s.popPc.Inv :=
  { h with
    stackPointer := (Nat.sub_le _ _).trans h.stackPointer
    liveEntries := fun k hk => h.liveEntries k (hk.trans_le (Nat.sub_le _ _))
    programCounter := (h.liveEntries (s.sp - 1) (Nat.sub_one_lt live)).trans (by decide) }

theorem writeBytes (h : s.Inv) (a : Nat) (bs : List Byte) : (s.writeBytes a bs).Inv := by
  rw [s.writeBytes_eq]
  exact { h with memory := s.writeBytes_wf a bs h.memory }

/-- Every effect of an instruction keeps the invariant on a ready core that has fetched: `PC` is at most 4096 and this
cycle has set no display flag. -/
theorem effect (h : s.Inv) (hr : s.ready) (hpc : s.pc.toNat ≤ 4096) (hd : s.displayDirty = false)
    (hc : s.displayCleared = false) {i : Instr} {t : State} (e : Effect s i t) : t.Inv := by
  cases e with
  | halt cause info hcause => exact h.raise hr.2 hcause info
  | regs | index | timers => exact { h with }
  | random v =>
    rw [s.takeRandByte_eq]
    exact { h with }
  | stores a bs => exact h.writeBytes a bs
  | skip hi taken => exact h.skipIf hpc taken
  | jump nnn =>
    have := nnn.isLt
    refine { h with programCounter := ?_ }
    rw [State.setPc_pc, zextAddr_toNat]
    omega
  | jumpV0 nnn =>
    have := nnn.isLt
    have := (s.readReg 0).isLt
    refine { h with programCounter := ?_ }
    rw [State.setPc_pc, s.indexedTarget_toNat]
    omega
  | call nnn room => exact h.call hpc room nnn
  | ret live => exact h.ret live
  | clear => exact { h with displayFlags := fun both => by simp [hd] at both }
  | draw => exact { h with displayFlags := fun both => by simp [hc] at both }
  | wait x => exact h.keyWait hr.1 x

end State.Inv

theorem State.timed_ready {s : State} (h : s.ready) : s.timed.ready := by
  rw [s.timed_eq]
  exact h

@[simp] theorem State.timed_displayDirty (s : State) : s.timed.displayDirty = false := by rw [s.timed_eq]

@[simp] theorem State.timed_displayCleared (s : State) : s.timed.displayCleared = false := by rw [s.timed_eq]

/-- Settles O52, by the six things a step can do. -/
theorem everyStepKeepsInvariant : Obligations.EveryStepKeepsInvariant := by
  intro s t hs h
  obtain ⟨x, hw, rfl⟩ | ⟨-, -, rfl⟩ | ⟨-, -, rfl⟩ | ⟨hr, -, -, rfl⟩ | ⟨⟨-, -, hb⟩, -, rfl⟩ |
    ⟨i, u, ⟨⟨hr, -, hb⟩, -⟩, hu, rfl⟩ := step_cases h
  · -- a look at a key wait: a blocked core has not halted
    exact (hs.keyWait (hs.blockedRuns (by simp [hw])) x).endCycle
  · exact hs.takeHostCall.haltedCycle -- a call on a halted core
  · exact hs.timed.endCycle -- the instruction gate is shut
  · exact (hs.timed.raise (State.timed_ready hr).2 (by decide) _).endCycle -- the fetch is out of bounds
  · exact ((hs.timed.advance _ hb).with_ports _).endCycle -- the word is no instruction
  · -- an instruction runs, on the state after its fetch
    have hfetched := hs.timed.advance s.hostCall.now hb
    exact (hfetched.effect (State.timed_ready hr) (State.advance_pc_le _ hb) s.timed_displayDirty
      s.timed_displayCleared (exec_effect hu)).endCycle

/-- The state of R34 has the invariant, whatever the parameters. -/
theorem State.initial_inv (p : Config.Params) : (State.initial p).Inv where
  memory := Memory.wf_nil _
  stackLength := List.length_replicate
  stackPointer := Nat.zero_le _
  liveEntries k hk := absurd hk (Nat.not_lt_zero k)
  programCounter := (by decide : (0x200#16).toNat ≤ 0x10FE)
  haltCause := by simp [State.initial]
  displayFlags := by simp [State.initial]
  blockedRuns hb := absurd rfl hb

/-- An image that fits is stored over the initial state (R261), and a longer one is refused (R263). -/
theorem State.construct_of_fits (p : Config.Params) {image : List Byte} (h : image.length ≤ 3584) :
    State.construct p image = some ((State.initial p).writeBytes Config.progBase image) := if_pos h

theorem State.construct_of_too_long (p : Config.Params) {image : List Byte} (h : 3584 < image.length) :
    State.construct p image = none := if_neg h.not_ge

/-- Settles O53: loading the image only stores bytes over the initial state, which has the invariant. -/
theorem constructionEstablishesInvariant : Obligations.ConstructionEstablishesInvariant := by
  refine ⟨State.initial_inv {}, fun p image s h => ?_⟩
  by_cases hfit : image.length ≤ 3584
  · obtain rfl := Option.some.inj ((State.construct_of_fits p hfit).symm.trans h)
    exact (State.initial_inv p).writeBytes _ _
  · rw [State.construct_of_too_long p (Nat.lt_of_not_le hfit)] at h
    cases h

/-- Settles O58: of the initial state's registers, loading the image writes none. -/
theorem registersAtReset : Obligations.RegistersAtReset := by
  refine fun p image => ⟨fun hfit => ⟨_, State.construct_of_fits p hfit, fun r => ?_, ?_⟩,
    State.construct_of_too_long p⟩
  · simp [State.initial, State.readReg, Vector.get_eq_getElem]
  · have hblank : ∀ y x, (State.initial p).fb.cell y x = false := Framebuffer.cell_blank
    simpa using ⟨rfl, rfl, rfl, rfl, rfl, rfl, hblank, rfl, rfl, rfl, rfl, rfl, rfl, rfl, rfl⟩

end Sys2Proof.Machine
end

section
/-! Which instruction can move which part of the state: `PC`, the transient flags, the framebuffer, the call stack and
the timing registers, each read off the effects of an instruction and carried to the step by `step_cases`. -/

namespace Sys2Proof.Machine

/-! ### One instruction -/

/-- Settles O24, by the effects of an instruction: only those of the skips, the jumps, `CALL` and `RET` write `PC`. -/
theorem programCounterSources : Obligations.ProgramCounterSources := by
  intro i s t h
  cases exec_effect h with
  | halt | regs | index | timers | clear | draw => exact .inl rfl
  | random => exact .inl s.takeRandByte_pc
  | stores a bs => exact .inl (s.writeBytes_pc a bs)
  | wait x => exact .inl (by rw [s.keyWait_eq])
  | skip hi taken =>
    cases taken with
    | false => exact .inl rfl
    | true => exact .inr (.inl ⟨rfl, hi⟩)
  | jump nnn => exact .inr (.inr (.inl ⟨nnn, .inl rfl, zextAddr_toNat nnn⟩))
  | call nnn => exact .inr (.inr (.inl ⟨nnn, .inr rfl, zextAddr_toNat nnn⟩))
  | jumpV0 nnn => exact .inr (.inr (.inr (.inl ⟨nnn, rfl, s.indexedTarget_toNat nnn⟩)))
  | ret => exact .inr (.inr (.inr (.inr ⟨rfl, rfl⟩)))

/-- No instruction writes a timing register or the tone flag (R29, R30). -/
theorem exec_time_tone {i : Instr} {s t : State} (h : exec i s = .next t) :
    t.lastTimerTick = s.lastTimerTick ∧ t.lastInstrTime = s.lastInstrTime ∧ t.toneOn = s.toneOn := by
  cases exec_effect h with
  | wait => rw [s.keyWait_eq]; simp
  | _ => simp

theorem exec_displayDirty {i : Instr} {s t : State} (h : exec i s = .next t) :
    t.displayDirty = s.displayDirty ∨ ∃ x y n, i = .drw x y n := by
  cases exec_effect h with
  | draw x y n => exact .inr ⟨x, y, n, rfl⟩
  | wait => rw [s.keyWait_eq]; exact .inl rfl
  | _ => exact .inl (by simp)

theorem exec_displayCleared {i : Instr} {s t : State} (h : exec i s = .next t) :
    t.displayCleared = s.displayCleared ∨ i = .cls := by
  cases exec_effect h with
  | clear => exact .inr rfl
  | wait => rw [s.keyWait_eq]; exact .inl rfl
  | _ => exact .inl (by simp)

theorem exec_fb {i : Instr} {s t : State} (h : exec i s = .next t) :
    t.fb = s.fb ∨ i = .cls ∨ ∃ x y n, i = .drw x y n := by
  cases exec_effect h with
  | clear => exact .inr (.inl rfl)
  | draw x y n => exact .inr (.inr ⟨x, y, n, rfl⟩)
  | wait => rw [s.keyWait_eq]; exact .inl rfl
  | _ => exact .inl (by simp)

/-- `RET` leaves the popped entry where it was (R25). -/
theorem exec_stack {i : Instr} {s t : State} (h : exec i s = .next t) :
    (t.stack = s.stack ∧ t.sp = s.sp) ∨ (∃ nnn, i = .call nnn) ∨ (i = .ret ∧ t.stack = s.stack) := by
  cases exec_effect h with
  | call nnn => exact .inr (.inl ⟨nnn, rfl⟩)
  | ret => exact .inr (.inr ⟨rfl, rfl⟩)
  | wait => rw [s.keyWait_eq]; exact .inl ⟨rfl, rfl⟩
  | _ => exact .inl (by simp)

/-! ### One step -/

/-- A step that runs no instruction leaves the framebuffer and the call stack alone; one that does runs it on a state
with the framebuffer and the call stack of `s`. -/
theorem step_runs_or_keeps {s t : State} (h : step s = .next t) :
    (t.fb = s.fb ∧ t.stack = s.stack ∧ t.sp = s.sp) ∨
      ∃ i u v, s.runsInstr i ∧ exec i u = .next v ∧ (u.fb = s.fb ∧ u.stack = s.stack ∧ u.sp = s.sp) ∧
        (t.fb = v.fb ∧ t.stack = v.stack ∧ t.sp = v.sp) := by
  obtain ⟨x, -, rfl⟩ | ⟨-, -, rfl⟩ | ⟨-, -, rfl⟩ | ⟨-, -, -, rfl⟩ | ⟨-, -, rfl⟩ | ⟨i, v, hi, hv, rfl⟩ := step_cases h
  · left -- a look at a key wait
    rw [s.keyWait_eq]
    simp
  · exact .inl (by simp) -- a call on a halted core
  · exact .inl (by simp [State.timed]) -- the instruction gate is shut
  · exact .inl (by simp [State.timed]) -- the fetch is out of bounds
  · exact .inl (by simp [State.timed]) -- the word is no instruction
  · exact .inr ⟨i, _, v, hi, hv, by simp [State.timed], by simp⟩ -- an instruction runs

/-- Settles O44: the framebuffer can only change where an instruction runs, and there only by `CLS` or `DRW`. -/
theorem onlyDrawAndClearChangeScreen : Obligations.OnlyDrawAndClearChangeScreen := by
  intro s t h hne
  obtain ⟨hfb, -⟩ | ⟨i, u, v, hi, hv, ⟨hu, -⟩, ht, -⟩ := step_runs_or_keeps h
  · exact absurd hfb hne
  · obtain e | rfl | ⟨x, y, n, rfl⟩ := exec_fb hv
    · exact absurd (ht.trans (e.trans hu)) hne
    · exact .inl hi
    · exact .inr ⟨x, y, n, hi⟩

/-- Settles O45: the stack can only change where an instruction runs, and there only by `CALL` or `RET`. -/
theorem onlyCallAndReturnMoveStack : Obligations.OnlyCallAndReturnMoveStack := by
  intro s t h hne
  obtain ⟨-, hstack, hsp⟩ | ⟨i, u, v, hi, hv, ⟨-, hustack, husp⟩, -, hstack, hsp⟩ := step_runs_or_keeps h
  · exact absurd hne (by simp [hstack, hsp])
  · obtain ⟨estack, esp⟩ | ⟨nnn, rfl⟩ | ⟨rfl, estack⟩ := exec_stack hv
    · exact absurd hne (by simp [hstack, hsp, estack, esp, hustack, husp])
    · exact .inl ⟨nnn, hi⟩
    · exact .inr ⟨hi, hstack.trans (estack.trans hustack)⟩

/-- `ST` is non-zero after a decay exactly when it was above 1 (R240). -/
theorem decayed_pos_iff (b : Byte) : 0 < (decayed b).toNat ↔ 1 < b.toNat := by
  unfold decayed
  split <;> bv_omega

/-- The timer part of a cycle raises the tone flag exactly when it ticks and leaves `ST` non-zero (R241, D17). -/
theorem State.timed_toneOn_iff (s : State) :
    s.timed.toneOn = true ↔
      s.params.timerIntervalNs < s.hostCall.now.toNat - s.lastTimerTick.toNat ∧ 1 < s.st.toNat := by
  by_cases htick : s.params.timerIntervalNs < s.hostCall.now.toNat - s.lastTimerTick.toNat
  · obtain ⟨-, -, -, htone⟩ := s.timed_of_tick htick
    simp [htone, htick, decayed_pos_iff]
  · obtain ⟨-, -, -, htone⟩ := s.timed_of_no_tick htick
    simp [htone, htick]

/-- After a step of a ready core the tone flag is what the timer part made it; a display flag that is set was set by
the instruction that ran. -/
theorem step_flags {s t : State} (hr : s.ready) (h : step s = .next t) :
    (t.displayDirty = true → ∃ x y n, s.runsInstr (.drw x y n)) ∧
      (t.displayCleared = true → s.runsInstr .cls) ∧ t.toneOn = s.timed.toneOn := by
  obtain ⟨x, hw, -⟩ | ⟨-, hh, -⟩ | ⟨-, -, rfl⟩ | ⟨-, -, -, rfl⟩ | ⟨-, -, rfl⟩ | ⟨i, u, hi, hu, rfl⟩ := step_cases h
  · cases hr.2.symm.trans hw -- a ready core is not blocked
  · cases hr.1.symm.trans hh -- a ready core has not halted
  · simp -- the instruction gate is shut
  · simp -- the fetch is out of bounds
  · simp -- the word is no instruction
  · obtain ⟨-, -, htone⟩ := exec_time_tone hu
    refine ⟨fun hset => ?_, fun hset => ?_, u.endCycle_toneOn.trans htone⟩
    · obtain e | ⟨x, y, n, rfl⟩ := exec_displayDirty hu
      · simp [e] at hset
      · exact ⟨x, y, n, hi⟩
    · obtain e | rfl := exec_displayCleared hu
      · simp [e] at hset
      · exact hi

/-- Settles O43: the display flags by the instruction that ran, the tone flag by the timer part of the cycle. -/
theorem transientFlagsHaveOneSource : Obligations.TransientFlagsHaveOneSource := by
  intro s t hr h
  obtain ⟨hdirty, hcleared, htone⟩ := step_flags hr h
  exact ⟨hdirty, hcleared, by rw [htone, s.timed_toneOn_iff]⟩

/-! ### The timing registers -/

theorem State.timed_lastTimerTick (s : State) :
    s.timed.lastTimerTick = s.hostCall.now ∨ s.timed.lastTimerTick = s.lastTimerTick := by
  by_cases htick : s.params.timerIntervalNs < s.hostCall.now.toNat - s.lastTimerTick.toNat
  · obtain ⟨-, -, h, -⟩ := s.timed_of_tick htick
    exact .inl h
  · obtain ⟨-, -, h, -⟩ := s.timed_of_no_tick htick
    exact .inr h

@[simp] theorem State.timed_lastInstrTime (s : State) : s.timed.lastInstrTime = s.lastInstrTime := by rw [s.timed_eq]

/-- A cycle call leaves each timing register as it was or at `now` (R92, R96). -/
theorem step_times {s t : State} (hw : s.waiting = none) (h : step s = .next t) :
    (t.lastTimerTick = s.hostCall.now ∨ t.lastTimerTick = s.lastTimerTick) ∧
      (t.lastInstrTime = s.hostCall.now ∨ t.lastInstrTime = s.lastInstrTime) := by
  have htick := s.timed_lastTimerTick
  obtain ⟨x, hw', -⟩ | ⟨-, -, rfl⟩ | ⟨-, -, rfl⟩ | ⟨-, -, -, rfl⟩ | ⟨-, -, rfl⟩ | ⟨i, u, -, hu, rfl⟩ := step_cases h
  · cases hw.symm.trans hw' -- the core is not blocked
  · simp -- a call on a halted core
  · simpa using htick -- the instruction gate is shut
  · simpa using htick -- the fetch is out of bounds
  · simpa using htick -- the word is no instruction
  · obtain ⟨etick, einstr, -⟩ := exec_time_tone hu
    simpa [etick, einstr] using htick

/-- Settles O54: each timing register is as it was or at `now`, which is at least both. -/
theorem timeNeverRunsBack : Obligations.TimeNeverRunsBack := by
  intro s t hw htick hinstr h
  obtain ⟨e | e, e' | e'⟩ := step_times hw h <;> simp [e, e', htick, hinstr]

end Sys2Proof.Machine
end

section
/-! No instruction reads `ST`, the transient flags, the timing registers or the debug flag (R27, R29, R30, R251): running
an instruction on a state with these hidden gives the state it gives otherwise, with these hidden. -/

namespace Sys2Proof.Machine

/-- A state with `ST`, the transient flags, the timing registers and the debug flag blanked out. -/
def State.hideTime (s : State) : State :=
  { s with
    st := 0, displayDirty := false, displayCleared := false, toneOn := false, lastTimerTick := 0,
    lastInstrTime := 0, params := { s.params with debug := false } }

variable (s : State)

theorem State.hideTime_writeBytes (a : Nat) (bs : List Byte) :
    (s.hideTime.writeBytes a bs).hideTime = (s.writeBytes a bs).hideTime := by
  induction bs generalizing s a with
  | nil => rfl
  | cons b bs ih => exact ih (s.writeByte a b) (a + 1)

theorem State.hideTime_loadBlock (x : Reg) : (s.hideTime.loadBlock x).hideTime = (s.loadBlock x).hideTime := by
  unfold State.loadBlock
  induction regsUpTo x generalizing s with
  | nil => rfl
  | cons k ks ih => exact ih (s.writeReg k (s.readByte (s.effAddr k.val)))

theorem State.hideTime_skipIf (taken : Bool) : (s.hideTime.skipIf taken).hideTime = (s.skipIf taken).hideTime := by
  cases taken <;> rfl

theorem State.hideTime_takeRandByte : s.hideTime.takeRandByte = s.takeRandByte.hideTime := by
  unfold State.takeRandByte
  cases h : s.ports.randBytes <;> simp [State.hideTime, h]

theorem State.hideTime_takeKeyAnswer : s.hideTime.takeKeyAnswer = s.takeKeyAnswer.hideTime := by
  unfold State.takeKeyAnswer
  cases h : s.ports.keyAnswers <;> simp [State.hideTime, h]

theorem State.hideTime_keyAnswer : s.hideTime.keyAnswer = s.keyAnswer := rfl

theorem State.hideTime_keyWait (x : Reg) : (s.hideTime.keyWait x).hideTime = (s.keyWait x).hideTime := by
  unfold State.keyWait
  rw [s.hideTime_keyAnswer, s.hideTime_takeKeyAnswer]
  split <;> rfl

/-- Two outcomes that are next states and agree but for the hidden part. -/
def SameHidden (o o' : Host.Outcome State Fault Refusal) : Prop :=
  ∃ t t', o = .next t ∧ o' = .next t' ∧ t'.hideTime = t.hideTime

theorem SameHidden.of_guarded {c : Prop} [Decidable c] {t t' u u' : State} (ht : t'.hideTime = t.hideTime)
    (hu : u'.hideTime = u.hideTime) :
    SameHidden (if c then .next t else .next u) (if c then .next t' else .next u') := by
  split
  · exact ⟨t, t', rfl, rfl, ht⟩
  · exact ⟨u, u', rfl, rfl, hu⟩

theorem exec_hideTime (i : Instr) : SameHidden (exec i s) (exec i s.hideTime) := by
  cases i with
  | ret | call => exact .of_guarded rfl rfl
  | drw x y n => exact .of_guarded (c := s.accessFits (s.visibleRows y n) = true) rfl rfl
  | bcd x => exact .of_guarded (c := s.accessFits 3 = true) (s.hideTime_writeBytes _ _) rfl
  | storeRegs x => exact .of_guarded (c := s.accessFits (x.val + 1) = true) (s.hideTime_writeBytes _ _) rfl
  | loadRegs x => exact .of_guarded (c := s.accessFits (x.val + 1) = true) (s.hideTime_loadBlock x) rfl
  | ldKey x => exact ⟨_, _, rfl, rfl, s.hideTime_keyWait x⟩
  | rnd x nn =>
    refine ⟨_, _, rfl, rfl, ?_⟩
    rw [s.hideTime_takeRandByte]
    rfl
  | seImm | sneImm | seReg | sneReg | skp | sknp => exact ⟨_, _, rfl, rfl, s.hideTime_skipIf _⟩
  | _ => exact ⟨_, _, rfl, rfl, rfl⟩

/-- Settles O49: two states that agree but for the hidden part are, with it blanked out, one state, and from each the
instruction goes on as from that one. -/
theorem instructionsDoNotReadTimeOrFlags : Obligations.InstructionsDoNotReadTimeOrFlags := by
  intro i s s' hs
  obtain ⟨t, u, ht, hu, htu⟩ := exec_hideTime s i
  obtain ⟨t', u', ht', hu', htu'⟩ := exec_hideTime s' i
  have huu : u = u' := Host.Outcome.next.inj (hu.symm.trans ((congrArg (exec i) hs).trans hu'))
  exact ⟨t, t', ht, ht', htu.symm.trans (huu ▸ htu')⟩

end Sys2Proof.Machine
end

section
/-! What the two storing instructions leave in memory and at which addresses they can change it (R163, R164), and that
nothing else in a step stores a byte (R50, R57). -/

namespace Sys2Proof.Machine

/-! ### One store -/

variable (s : State)

/-- A block that ends in memory is stored whole (R55, R164). -/
theorem exec_storeRegs_of_fits {x : Reg} (hfit : s.i.toNat + x.val ≤ 4095) :
    exec (.storeRegs x) s = .next (s.writeBytes (s.effAddr 0) (s.regBlock x)) :=
  if_pos ((s.accessFits_iff _).2 (.inr (Nat.lt_succ_of_le hfit)))

/-- After a block store register `k` stands at `I + k` (R164). -/
theorem State.readByte_storeBlock {x k : Reg} (hwf : Memory.wf s.params.glyphs s.mem = true)
    (hfit : s.i.toNat + x.val ≤ 4095) (hk : k ≤ x) :
    (s.writeBytes (s.effAddr 0) (s.regBlock x)).readByte (s.effAddr k.val) = s.readReg k := by
  have hlen : k.val < (s.regBlock x).length := by rw [s.length_regBlock]; exact Nat.lt_succ_of_le hk
  have hend : s.effAddr 0 + (s.regBlock x).length ≤ Config.memSize := by
    rw [s.length_regBlock]
    exact Nat.succ_le_succ hfit
  calc (s.writeBytes (s.effAddr 0) (s.regBlock x)).readByte (s.effAddr 0 + k.val)
    _ = (s.regBlock x)[k.val] := s.readByte_writeBytes_inside _ _ _ hlen hwf hend
    _ = s.readReg k := by simp [State.regBlock, getElem_regsUpTo]

/-- Settles O38: the fetch reads the two bytes the block store put at `I + k` and `I + j`. -/
theorem fetchSeesStoredBytes : Obligations.FetchSeesStoredBytes := by
  intro x s hwf hfit
  refine ⟨_, exec_storeRegs_of_fits s hfit, fun k j hk hj hpc hpc' => ?_⟩
  rw [State.fetchWord, State.writeBytes_pc, hpc', hpc, s.readByte_storeBlock hwf hfit hk,
    s.readByte_storeBlock hwf hfit hj]

/-- A run of stores can change no byte outside the addresses it covers. -/
theorem State.covered_of_writeBytes_ne {s : State} {a p : Nat} {bs : List Byte}
    (hne : (s.writeBytes a bs).readByte p ≠ s.readByte p) : a ≤ p ∧ p < a + bs.length := by
  by_contra hout
  exact hne ((s.preserves_writeBytes a bs).bytes p hout)

/-! ### One instruction -/

/-- A meaning with a fatal condition has one of its two outcomes. -/
theorem eq_or_eq_of_guarded {c : Prop} [Decidable c] {t u v : State}
    (h : (if c then .next u else .next v : Host.Outcome State Fault Refusal) = .next t) : t = u ∨ t = v := by
  split at h <;> obtain rfl := Host.Outcome.next.inj h
  · exact .inl rfl
  · exact .inr rfl

@[simp] theorem State.keyWait_mem (x : Reg) : (s.keyWait x).mem = s.mem := by rw [s.keyWait_eq]

@[simp] theorem State.keyWait_readByte (x : Reg) (a : Nat) : (s.keyWait x).readByte a = s.readByte a := by
  simp [State.readByte]

/-- An instruction that changes the byte at `a` is a `BCD` or a block store, and stores at `a`. -/
theorem stores_of_exec_readByte_ne {i : Instr} {s t : State} {a : Nat} (h : exec i s = .next t)
    (hne : t.readByte a ≠ s.readByte a) :
    ∃ x, (i = .bcd x ∧ s.i.toNat ≤ a ∧ a ≤ s.i.toNat + 2) ∨
      (i = .storeRegs x ∧ s.i.toNat ≤ a ∧ a ≤ s.i.toNat + x.val) := by
  cases i with
  | bcd x =>
    obtain rfl | rfl := eq_or_eq_of_guarded h
    · obtain ⟨hlow, hhigh⟩ := State.covered_of_writeBytes_ne hne
      exact ⟨x, .inl ⟨rfl, hlow, Nat.le_of_lt_succ hhigh⟩⟩
    · exact absurd (s.raiseMemory_readByte a) hne
  | storeRegs x =>
    obtain rfl | rfl := eq_or_eq_of_guarded h
    · obtain ⟨hlow, hhigh⟩ := State.covered_of_writeBytes_ne hne
      rw [s.length_regBlock] at hhigh
      exact ⟨x, .inr ⟨rfl, hlow, Nat.le_of_lt_succ hhigh⟩⟩
    · exact absurd (s.raiseMemory_readByte a) hne
  | ret | call | drw | loadRegs =>
    refine absurd ?_ hne
    obtain rfl | rfl := eq_or_eq_of_guarded h <;> simp [State.readByte]
  | _ =>
    refine absurd ?_ hne
    obtain rfl := Host.Outcome.next.inj h
    simp [State.readByte]

/-! ### One step -/

@[simp] theorem State.timed_i : s.timed.i = s.i := by rw [s.timed_eq]

@[simp] theorem State.timed_readByte (a : Nat) : s.timed.readByte a = s.readByte a := by simp [State.timed]

/-- Settles O39, by the six things a step can do: only an instruction can change a byte, and it runs with the memory
and the `I` of `s`. -/
theorem onlyStoresChangeMemory : Obligations.OnlyStoresChangeMemory := by
  intro s t a h hne
  obtain ⟨x, -, rfl⟩ | ⟨-, -, rfl⟩ | ⟨-, -, rfl⟩ | ⟨-, -, -, rfl⟩ | ⟨-, -, rfl⟩ | ⟨i, u, hi, hu, rfl⟩ := step_cases h
  · simp at hne -- a look at a key wait
  · simp at hne -- a call on a halted core
  · simp at hne -- the instruction gate is shut
  · simp at hne -- the fetch is out of bounds
  · simp at hne -- the word is no instruction
  · have hne' : u.readByte a ≠ (s.timed.advance s.hostCall.now).readByte a := by simpa using hne
    obtain ⟨x, ⟨rfl, hrange⟩ | ⟨rfl, hrange⟩⟩ := stores_of_exec_readByte_ne hu hne'
    · exact ⟨x, .inl ⟨hi, by simpa using hrange⟩⟩
    · exact ⟨x, .inr ⟨hi, by simpa using hrange⟩⟩

end Sys2Proof.Machine
end

section
/-! The encoder and the decoder undo each other (R71 to R75), the words no instruction has (R76), and the opcode table as
masks and matches (R74). Three lemmas carry it: `decodeWord_encodeWord`, `decodeWord_reads`, which says once what the
decoder can answer, and `decodeWord_of_selects`. -/

namespace Sys2Proof

/-! ### From an instruction to its word and back -/

/-- The decoder finds the class and the sub-opcode the encoder put into the word, and reads the operands back. -/
theorem decodeWord_encodeWord {i : Instr} (hwf : i.wf = true) : decodeWord (encodeWord i) = .ok i := by
  cases i with
  | cls | ret => rfl
  | drw x y n =>
    have hn : n < 16 := of_decide_eq_true hwf
    simpa [encodeWord, decodeWord] using hn
  | ldReg | orReg | andReg | xorReg | addReg | subReg | shr | subnReg | shl =>
    simp [encodeWord, decodeWord, decodeClass8]
  | skp | sknp => simp [encodeWord, decodeWord, decodeClassE]
  | ldFromDt | ldDt | ldSt | ldKey | addI | ldF | bcd | storeRegs | loadRegs =>
    simp [encodeWord, decodeWord, decodeClassF]
  | _ => simp [encodeWord, decodeWord]

/-- Decoding a byte stream decodes the word of its first two bytes (R56, R70). -/
theorem decode_of_decodeWord {w : Word} {i : Instr} (h : decodeWord w = .ok i) (rest : List Byte) :
    decode (highByte w :: lowByte w :: rest) = .ok (i, rest) := by
  simp [decode, h]

/-- Settles O2: the two bytes of an instruction make its word again, and the word decodes to the instruction. -/
theorem decodingUndoesEncoding : Obligations.DecodingUndoesEncoding :=
  fun _ rest hwf => decode_of_decodeWord (decodeWord_encodeWord hwf) rest

/-! ### From a word to its instruction and back -/

theorem encXY_fields (w : Word) : encXY (opClass w) (fieldX w) (fieldY w) (fieldN w) = w := by
  apply BitVec.eq_of_toNat_eq
  rw [encXY_toNat, opClass_toNat, fieldX_val, fieldY_val, fieldN_toNat]
  omega

theorem encX_fields (w : Word) : encX (opClass w) (fieldX w) (fieldNN w) = w := by
  apply BitVec.eq_of_toNat_eq
  rw [encX_toNat, opClass_toNat, fieldX_val, fieldNN_toNat]
  omega

theorem encNNN_fields (w : Word) : encNNN (opClass w) (fieldNNN w) = w := by
  apply BitVec.eq_of_toNat_eq
  rw [encNNN_toNat, opClass_toNat, fieldNNN_toNat]
  omega

/-- The words R76 lists, class by class. -/
def IsUnrecognised (w : Word) : Prop :=
  (opClass w = 0x0 ∧ w ≠ 0x00E0 ∧ w ≠ 0x00EE) ∨
  ((opClass w = 0x5 ∨ opClass w = 0x9) ∧ fieldN w ≠ 0x0) ∨
  (opClass w = 0x8 ∧ (fieldN w = 0x8 ∨ fieldN w = 0x9 ∨ fieldN w = 0xA ∨ fieldN w = 0xB ∨ fieldN w = 0xC ∨
    fieldN w = 0xD ∨ fieldN w = 0xF)) ∨
  (opClass w = 0xE ∧ fieldNN w ≠ 0x9E ∧ fieldNN w ≠ 0xA1) ∨
  (opClass w = 0xF ∧ fieldNN w ≠ 0x07 ∧ fieldNN w ≠ 0x0A ∧ fieldNN w ≠ 0x15 ∧ fieldNN w ≠ 0x18 ∧
    fieldNN w ≠ 0x1E ∧ fieldNN w ≠ 0x29 ∧ fieldNN w ≠ 0x33 ∧ fieldNN w ≠ 0x55 ∧ fieldNN w ≠ 0x65)

/-- What the decoder can answer for `w`: the well-formed instruction whose word `w` is, or the decode miss for a word
R76 lists. -/
inductive Reads (w : Word) : Except DecodeError Instr → Prop
  | instr {i : Instr} (hword : encodeWord i = w) (hwf : i.wf = true) : Reads w (.ok i)
  | miss (hlisted : IsUnrecognised w) : Reads w (.error (.unrecognised w))

namespace Reads

variable {w : Word} {c d : BitVec 4}

/-- An instruction of format `XY` is read where class and sub-opcode are its own. -/
theorem ofXY {i : Instr} (hc : opClass w = c) (hd : fieldN w = d)
    (hi : encodeWord i = encXY c (fieldX w) (fieldY w) d) (hwf : i.wf = true) : Reads w (.ok i) := by
  subst hc hd
  exact .instr (hi.trans (encXY_fields w)) hwf

/-- An instruction of format `X` or `XNN` is read where class and low byte are its own. -/
theorem ofX {i : Instr} {nn : Byte} (hc : opClass w = c) (hnn : fieldNN w = nn)
    (hi : encodeWord i = encX c (fieldX w) nn) (hwf : i.wf = true) : Reads w (.ok i) := by
  subst hc hnn
  exact .instr (hi.trans (encX_fields w)) hwf

/-- An instruction of format `NNN` is read where the class is its own. -/
theorem ofNNN {i : Instr} (hc : opClass w = c) (hi : encodeWord i = encNNN c (fieldNNN w)) (hwf : i.wf = true) :
    Reads w (.ok i) := by
  subst hc
  exact .instr (hi.trans (encNNN_fields w)) hwf

end Reads

theorem decodeClass0_reads {w : Word} (hc : opClass w = 0x0) : Reads w (decodeClass0 w) := by
  unfold decodeClass0
  split
  next hw => exact .instr hw.symm rfl
  next hcls =>
    split
    next hw => exact .instr hw.symm rfl
    next hret => exact .miss (.inl ⟨hc, hcls, hret⟩)

/-- The sub-opcodes of class 8 that stand in no row. -/
theorem unused_of_ne_subOpcodes8 : ∀ n : BitVec 4, n ≠ 0x0 → n ≠ 0x1 → n ≠ 0x2 → n ≠ 0x3 → n ≠ 0x4 → n ≠ 0x5 →
    n ≠ 0x6 → n ≠ 0x7 → n ≠ 0xE → n = 0x8 ∨ n = 0x9 ∨ n = 0xA ∨ n = 0xB ∨ n = 0xC ∨ n = 0xD ∨ n = 0xF := by
  bv_omega

theorem decodeClass8_reads {w : Word} (hc : opClass w = 0x8) : Reads w (decodeClass8 w) := by
  unfold decodeClass8
  split
  case h_10 h0 h1 h2 h3 h4 h5 h6 h7 hE =>
    exact .miss (.inr (.inr (.inl ⟨hc, unused_of_ne_subOpcodes8 _ h0 h1 h2 h3 h4 h5 h6 h7 hE⟩)))
  all_goals exact .ofXY hc ‹_› rfl rfl

theorem decodeClassE_reads {w : Word} (hc : opClass w = 0xE) : Reads w (decodeClassE w) := by
  unfold decodeClassE
  split
  case h_3 h9E hA1 => exact .miss (.inr (.inr (.inr (.inl ⟨hc, h9E, hA1⟩))))
  all_goals exact .ofX hc ‹_› rfl rfl

theorem decodeClassF_reads {w : Word} (hc : opClass w = 0xF) : Reads w (decodeClassF w) := by
  unfold decodeClassF
  split
  case h_10 h07 h0A h15 h18 h1E h29 h33 h55 h65 =>
    exact .miss (.inr (.inr (.inr (.inr ⟨hc, h07, h0A, h15, h18, h1E, h29, h33, h55, h65⟩))))
  all_goals exact .ofX hc ‹_› rfl rfl

/-- Class F is the one class the first fifteen arms of the decoder leave. -/
theorem classF_of_ne_others : ∀ c : BitVec 4, c ≠ 0x0 → c ≠ 0x1 → c ≠ 0x2 → c ≠ 0x3 → c ≠ 0x4 → c ≠ 0x5 → c ≠ 0x6 →
    c ≠ 0x7 → c ≠ 0x8 → c ≠ 0x9 → c ≠ 0xA → c ≠ 0xB → c ≠ 0xC → c ≠ 0xD → c ≠ 0xE →
    c = 0xF := by
  bv_omega

/-- The decoder answers every word in one of the two ways of `Reads`. -/
theorem decodeWord_reads (w : Word) : Reads w (decodeWord w) := by
  unfold decodeWord
  split
  case h_1 hc => -- class 0
    exact decodeClass0_reads hc
  case h_6 hc | h_10 hc => -- classes 5 and 9
    split
    · exact .ofXY hc ‹_› rfl rfl
    · exact .miss (.inr (.inl ⟨by simp [hc], ‹_›⟩))
  case h_9 hc => -- class 8
    exact decodeClass8_reads hc
  case h_14 hc => -- class D
    exact .ofXY hc rfl (by simp [encodeWord]) (decide_eq_true (fieldN w).isLt)
  case h_15 hc => -- class E
    exact decodeClassE_reads hc
  case h_16 h0 h1 h2 h3 h4 h5 h6 h7 h8 h9 hA hB hC hD hE => -- class F
    exact decodeClassF_reads (classF_of_ne_others _ h0 h1 h2 h3 h4 h5 h6 h7 h8 h9 hA hB hC hD hE)
  case h_2 hc | h_3 hc | h_11 hc | h_12 hc => -- classes 1, 2, A and B
    exact .ofNNN hc rfl rfl
  -- classes 3, 4, 6, 7 and C
  all_goals exact .ofX ‹_› rfl rfl rfl

/-- Settles O3: the only instruction the decoder can answer for a word is one whose word it is. -/
theorem encodingUndoesDecoding : Obligations.EncodingUndoesDecoding := by
  intro w i h
  obtain ⟨hword, hwf⟩ | _ := h ▸ decodeWord_reads w
  exact ⟨hword, hwf⟩

/-! ### The unrecognised words -/

theorem decodeWord_total (w : Word) : (∃ i, decodeWord w = .ok i) ∨ decodeWord w = .error (.unrecognised w) := by
  cases hr : decodeWord w with
  | ok i => exact .inl ⟨i, rfl⟩
  | error e =>
    obtain _ | _ := hr ▸ decodeWord_reads w
    exact .inr rfl

/-- Settles O1: the fields as numbers, and what the decoder can answer. -/
theorem fieldLayoutAndTotalDecoder : Obligations.FieldLayoutAndTotalDecoder :=
  fun w => ⟨opClass_toNat w, fieldX_val w, fieldY_val w, fieldN_toNat w, fieldNN_toNat w, fieldNNN_toNat w,
    decodeWord_total w⟩

/-- No word of an instruction stands in R76's list. -/
theorem not_isUnrecognised_encodeWord (i : Instr) : ¬ IsUnrecognised (encodeWord i) := by
  cases i with
  | cls | ret => unfold IsUnrecognised; decide
  | _ => simp [IsUnrecognised, encodeWord]

/-- Settles O5: a decode miss is a listed word, and a listed word is not the word of an instruction. -/
theorem unrecognisedWordsAreTheListedOnes : Obligations.UnrecognisedWordsAreTheListedOnes := by
  refine fun w => ⟨fun h => ?_, fun hlisted : IsUnrecognised w => ?_⟩
  · obtain _ | hlisted := h ▸ decodeWord_reads w
    exact hlisted
  · obtain ⟨i, hi⟩ | hmiss := decodeWord_total w
    · exact absurd ((encodingUndoesDecoding w i hi).1 ▸ hlisted) (not_isUnrecognised_encodeWord i)
    · exact hmiss

/-! ### The opcode table -/

theorem row_mem_opcodeTable (i : Instr) : i.row ∈ opcodeTable := by
  cases i <;> simp [opcodeTable, Instr.row]

open Laws in
/-- The word of an instruction matches the instruction's row (R74, R75). -/
theorem row_selects_encodeWord : ∀ i : Instr, i.row.selects (encodeWord i) = true
  | .cls => RowMatch.cls
  | .ret => RowMatch.ret
  | .jmp nnn => RowMatch.jmp nnn
  | .call nnn => RowMatch.call nnn
  | .seImm x nn => RowMatch.seImm x nn
  | .sneImm x nn => RowMatch.sneImm x nn
  | .seReg x y => RowMatch.seReg x y
  | .sneReg x y => RowMatch.sneReg x y
  | .ldImm x nn => RowMatch.ldImm x nn
  | .addImm x nn => RowMatch.addImm x nn
  | .ldReg x y => RowMatch.ldReg x y
  | .orReg x y => RowMatch.orReg x y
  | .andReg x y => RowMatch.andReg x y
  | .xorReg x y => RowMatch.xorReg x y
  | .addReg x y => RowMatch.addReg x y
  | .subReg x y => RowMatch.subReg x y
  | .shr x y => RowMatch.shr x y
  | .subnReg x y => RowMatch.subnReg x y
  | .shl x y => RowMatch.shl x y
  | .ldI nnn => RowMatch.ldI nnn
  | .jmpV0 nnn => RowMatch.jmpV0 nnn
  | .rnd x nn => RowMatch.rnd x nn
  | .drw x y n => RowMatch.drw x y n
  | .skp x => RowMatch.skp x
  | .sknp x => RowMatch.sknp x
  | .ldFromDt x => RowMatch.ldFromDt x
  | .ldDt x => RowMatch.ldDt x
  | .ldSt x => RowMatch.ldSt x
  | .ldKey x => RowMatch.ldKey x
  | .addI x => RowMatch.addI x
  | .ldF x => RowMatch.ldF x
  | .bcd x => RowMatch.bcd x
  | .storeRegs x => RowMatch.storeRegs x
  | .loadRegs x => RowMatch.loadRegs x

/-- A word that matches the row of `i` has the row's bits in common with the word of `i`. -/
theorem masked_of_selects {i : Instr} {w : Word} (h : i.row.selects w = true) :
    w &&& i.row.mask = encodeWord i &&& i.row.mask :=
  (eq_of_beq h).trans (eq_of_beq (row_selects_encodeWord i)).symm

/-- Words with the same masked bits have the same field where the mask covers it. -/
theorem extractLsb'_of_masked {w v m : Word} {start len : Nat} (h : w &&& m = v &&& m)
    (hcovers : m.extractLsb' start len = BitVec.allOnes len) : w.extractLsb' start len = v.extractLsb' start len := by
  have hfield := congrArg (BitVec.extractLsb' start len) h
  rwa [BitVec.extractLsb'_and, BitVec.extractLsb'_and, hcovers, BitVec.and_allOnes, BitVec.and_allOnes] at hfield

section

variable {i : Instr} {w : Word} (h : i.row.selects w = true)
include h

/-- Every mask of R75 covers the class. -/
theorem opClass_of_selects : opClass w = opClass (encodeWord i) :=
  extractLsb'_of_masked (masked_of_selects h) (by cases i <;> simp [Instr.row])

theorem fieldN_of_selects (hmask : i.row.mask = 0xF00F) : fieldN w = fieldN (encodeWord i) :=
  extractLsb'_of_masked (masked_of_selects h) (by rw [hmask]; rfl)

theorem fieldNN_of_selects (hmask : i.row.mask = 0xF0FF) : fieldNN w = fieldNN (encodeWord i) :=
  extractLsb'_of_masked (masked_of_selects h) (by rw [hmask]; rfl)

theorem eq_encodeWord_of_selects (hmask : i.row.mask = 0xFFFF) : w = encodeWord i := by
  have hbits := masked_of_selects h
  rwa [hmask, show (0xFFFF : Word) = BitVec.allOnes 16 from rfl, BitVec.and_allOnes, BitVec.and_allOnes] at hbits

/-- A word that matches the row of `i` decodes to an instruction of that row: the decoder chooses its arm by bits the
row fixes. -/
theorem decodeWord_of_selects : ∃ j, decodeWord w = .ok j ∧ j.row = i.row := by
  have hc := opClass_of_selects h
  cases i with
  | cls | ret =>
    obtain rfl := eq_encodeWord_of_selects h rfl
    exact ⟨_, decodeWord_encodeWord rfl, rfl⟩
  | seReg | sneReg =>
    have hn := fieldN_of_selects h rfl
    simp only [encodeWord, opClass_encXY, fieldN_encXY] at hc hn
    simp [decodeWord, hc, hn, Instr.row]
  | ldReg | orReg | andReg | xorReg | addReg | subReg | shr | subnReg | shl =>
    have hn := fieldN_of_selects h rfl
    simp only [encodeWord, opClass_encXY, fieldN_encXY] at hc hn
    simp [decodeWord, decodeClass8, hc, hn, Instr.row]
  | skp | sknp =>
    have hnn := fieldNN_of_selects h rfl
    simp only [encodeWord, opClass_encX, fieldNN_encX] at hc hnn
    simp [decodeWord, decodeClassE, hc, hnn, Instr.row]
  | ldFromDt | ldDt | ldSt | ldKey | addI | ldF | bcd | storeRegs | loadRegs =>
    have hnn := fieldNN_of_selects h rfl
    simp only [encodeWord, opClass_encX, fieldNN_encX] at hc hnn
    simp [decodeWord, decodeClassF, hc, hnn, Instr.row]
  | _ =>
    simp only [encodeWord, opClass_encNNN, opClass_encX, opClass_encXY] at hc
    simp [decodeWord, hc, Instr.row]

end

/-- The row of what a word decodes to is in the table, and the word matches it. -/
theorem row_of_decodeWord {w : Word} {i : Instr} (h : decodeWord w = .ok i) :
    i.row ∈ opcodeTable ∧ i.row.selects w = true := by
  obtain ⟨rfl, -⟩ := encodingUndoesDecoding w i h
  exact ⟨row_mem_opcodeTable i, row_selects_encodeWord i⟩

/-- Settles O4: a word is the word of what it decodes to, so it has the bits of that row; a row it matches decides what
it decodes to; and without a row it is no instruction's word. -/
theorem decoderFollowsOpcodeTable : Obligations.DecoderFollowsOpcodeTable := by
  refine fun w => ⟨fun i hi => row_of_decodeWord hi, fun r hr hsel => ?_, fun hnone => ?_⟩
  · obtain ⟨i, -, rfl⟩ := List.mem_map.1 hr
    exact decodeWord_of_selects hsel
  · obtain ⟨i, hi⟩ | hmiss := decodeWord_total w
    · obtain ⟨hmem, hsel⟩ := row_of_decodeWord hi
      exact absurd hsel (Bool.eq_false_iff.1 (hnone _ hmem))
    · exact hmiss

/-! ### Written-out words -/

/-- Settles O6: the decoder run on each of the fourteen words. -/
theorem writtenOutWordsDecode : Obligations.WrittenOutWordsDecode := by
  unfold Obligations.WrittenOutWordsDecode
  and_intros <;> decide

end Sys2Proof
end

section
/-! The instruction step (R94 to R97), the two time gates (R92, R93, R101 to R104) and what a cycle leaves alone: each
cycle of a ready core is `State.timed`, then what its instruction gate lets run, then `State.endCycle`. -/

namespace Sys2Proof.Machine

variable (s : State)

/-! ### The instruction step -/

theorem instrStep_of_outOfBounds (now : Time) (h : 4095 ≤ s.pc.toNat) :
    instrStep now s = .next (s.raise .pcOutOfBounds (some s.pc.toNat)) :=
  if_neg fun hb => by have := s.pcInBounds_iff.1 hb; omega

theorem instrStep_of_decoded (now : Time) {i : Instr} (hb : s.pcInBounds = true)
    (hd : decodeWord s.fetchWord = .ok i) : instrStep now s = exec i (s.advance now) := by
  rw [instrStep, if_pos hb, hd]

theorem instrStep_of_decodeMiss (now : Time) {e : DecodeError} (hb : s.pcInBounds = true)
    (hd : decodeWord s.fetchWord = .error e) :
    instrStep now s = .next ((s.advance now).emitDecodeMiss s.fetchWord s.pc) := by
  rw [instrStep, if_pos hb, hd]

/-- Settles O7, by the bounds check and then the decoder's two answers. -/
theorem stepFetchesAdvancesAndDispatches : Obligations.StepFetchesAdvancesAndDispatches := by
  refine fun now s => ⟨instrStep_of_outOfBounds s now, fun hpc => ?_⟩
  have hb : s.pcInBounds = true := s.pcInBounds_iff.2 (by omega)
  exact ⟨fun _ hd => instrStep_of_decoded s now hb hd, fun _ hd => instrStep_of_decodeMiss s now hb hd⟩

/-- A byte stream of two bytes decodes as their word does (R56, R70). -/
theorem decodeWord_of_decode_pair {hi lo : Byte} {i : Instr} (h : decode [hi, lo] = .ok (i, [])) :
    decodeWord (wordOfBytes hi lo) = .ok i := by
  cases hd : decodeWord (wordOfBytes hi lo) with
  | ok j => simpa [decode, hd] using h
  | error e => simp [decode, hd] at h

@[simp] theorem State.timed_pc : s.timed.pc = s.pc := by rw [s.timed_eq]

@[simp] theorem State.timed_readReg (r : Reg) : s.timed.readReg r = s.readReg r := by simp [State.timed]

/-- The part of a cycle before the fetch writes neither `PC` nor memory. -/
theorem State.timed_fetchWord :
    s.timed.fetchWord = wordOfBytes (s.readByte s.pc.toNat) (s.readByte (s.pc.toNat + 1)) := by
  simp [State.fetchWord]

/-- Settles O8: the conditions on `s` are those under which its next step runs `i`. -/
theorem stepRunsTheDecodedInstruction : Obligations.StepRunsTheDecodedInstruction := by
  intro s i hr hpc hgate hd
  have hb : s.timed.pcInBounds = true := s.timed.pcInBounds_iff.2 (by rw [s.timed_pc]; omega)
  have hi : decodeWord s.timed.fetchWord = .ok i := by
    rw [s.timed_fetchWord]
    exact decodeWord_of_decode_pair hd
  exact step_of_runsInstr s ⟨⟨hr, s.timed_instrGate.2 hgate, hb⟩, hi⟩

/-! ### The time gates -/

/-- Settles O56: the last instruction is at least as long ago as the last tick, and its interval is the shorter. -/
theorem lateDecayOpensInstructionGate : Obligations.LateDecayOpensInstructionGate := by
  intro s hshorter hlate htick
  have hlate' : s.lastInstrTime.toNat ≤ s.lastTimerTick.toNat := hlate
  have htick' : s.params.timerIntervalNs < s.hostCall.now.toNat - s.lastTimerTick.toNat := of_decide_eq_true htick
  exact s.timed_instrGate.2 (by omega)

/-- One decay takes one count off a timer that has one (R240). -/
theorem decayed_toNat (b : Byte) : (decayed b).toNat = b.toNat - 1 := by
  unfold decayed
  split <;> bv_omega

/-! ### What a step takes from the inputs and puts out -/

/-- The end of a call writes the result and no other port (R100). -/
@[simp] theorem State.endCycle_ports :
    s.endCycle.ports =
      { s.ports with status := if s.halted || s.waiting.isSome then s.ports.status else some .running } := by
  unfold State.endCycle
  split <;> simp

@[simp] theorem callTaken_endCycle {s t : State} : CallTaken s t.endCycle ↔ CallTaken s t := by simp [CallTaken]

@[simp] theorem drawsKept_endCycle {s t : State} : DrawsKept s t.endCycle ↔ DrawsKept s t := by simp [DrawsKept]

@[simp] theorem answersKept_endCycle {s t : State} : AnswersKept s t.endCycle ↔ AnswersKept s t := by
  simp [AnswersKept]

@[simp] theorem inputsKept_endCycle {s t : State} : InputsKept s t.endCycle ↔ InputsKept s t := by simp [InputsKept]

theorem State.callTaken_timed : CallTaken s s.timed := by
  simpa [CallTaken, s.timed_ports] using s.callTaken_takeHostCall

theorem State.inputsKept_timed : InputsKept s s.timed := by
  simpa [InputsKept, DrawsKept, AnswersKept, s.timed_ports] using s.inputsKept_takeHostCall

@[simp] theorem State.timed_status : s.timed.ports.status = none := by rw [s.timed_ports]

@[simp] theorem State.timed_diagnostic : s.timed.ports.diagnostic = none := by rw [s.timed_ports]

/-- A call that leaves the core neither halted nor blocked returns `Running` (R100). -/
theorem State.endCycle_status_of_ready {s : State} (h : s.ready) : s.endCycle.ports.status = some .running := by
  simp [h.1, h.2]

/-- A call that has halted the core returns what the halt has put out (R100, R230). -/
theorem State.endCycle_of_halted {s : State} (h : s.halted = true) : s.endCycle = s := by
  simp [State.endCycle, h]

/-! ### Frames of the parts of a cycle -/

theorem Preserves.trans {m : MayChange} {s t u : State} (h : Preserves m s t) (h' : Preserves m t u) :
    Preserves m s u where
  regs r hr := (h'.regs r hr).trans (h.regs r hr)
  bytes a ha := (h'.bytes a ha).trans (h.bytes a ha)
  i hm := (h'.i hm).trans (h.i hm)
  pc hm := (h'.pc hm).trans (h.pc hm)
  sp hm := (h'.sp hm).trans (h.sp hm)
  stack hm := (h'.stack hm).trans (h.stack hm)
  dt hm := (h'.dt hm).trans (h.dt hm)
  st hm := (h'.st hm).trans (h.st hm)
  fb hm := (h'.fb hm).trans (h.fb hm)
  displayDirty hm := (h'.displayDirty hm).trans (h.displayDirty hm)
  displayCleared hm := (h'.displayCleared hm).trans (h.displayCleared hm)
  halted hm := (h'.halted hm).trans (h.halted hm)
  haltCause hm := (h'.haltCause hm).trans (h.haltCause hm)
  waiting hm := (h'.waiting hm).trans (h.waiting hm)
  ports hm := (h'.ports hm).trans (h.ports hm)
  toneOn hm := (h'.toneOn hm).trans (h.toneOn hm)
  lastTimerTick hm := (h'.lastTimerTick hm).trans (h.lastTimerTick hm)
  lastInstrTime hm := (h'.lastInstrTime hm).trans (h.lastInstrTime hm)
  params := h'.params.trans h.params

/-- A state in which only the ports are others: a frame that lets them change says no more. -/
theorem State.preserves_withPorts {m : MayChange} (hm : m.ports) (p : Ports) :
    Preserves m s { s with ports := p } :=
  { Preserves.refl s m with ports := fun hn => absurd hm hn }

theorem State.preserves_endCycle {m : MayChange} (hm : m.ports) : Preserves m s s.endCycle := by
  rw [s.endCycle_eq]
  exact s.preserves_withPorts hm _

/-- The part of a cycle before its instruction gate writes the timers, the transient flags, the tick time and the ports
(R91, R92). -/
theorem State.preserves_timed :
    Preserves
      { dt := True, st := True, displayDirty := True, displayCleared := True, toneOn := True, lastTimerTick := True,
        ports := True } s s.timed := by
  rw [s.timed_eq]
  exact { Preserves.refl s _ with
    dt := fun h => absurd trivial h
    st := fun h => absurd trivial h
    displayDirty := fun h => absurd trivial h
    displayCleared := fun h => absurd trivial h
    toneOn := fun h => absurd trivial h
    lastTimerTick := fun h => absurd trivial h
    ports := fun h => absurd trivial h }

/-- With the timer gate shut that part writes the transient flags and the ports only. -/
theorem State.preserves_timed_of_no_tick
    (h : ¬ s.params.timerIntervalNs < s.hostCall.now.toNat - s.lastTimerTick.toNat) :
    Preserves { displayDirty := True, displayCleared := True, toneOn := True, ports := True } s s.timed := by
  obtain ⟨hdt, hst, htick, -⟩ := s.timed_of_no_tick h
  exact { s.preserves_timed with
    dt := fun _ => hdt
    st := fun _ => hst
    lastTimerTick := fun _ => htick }

/-! ### Cycles that run no instruction -/

theorem step_of_shut (hr : s.ready) (h : s.hostCall.now.toNat - s.lastInstrTime.toNat ≤ s.params.instrIntervalNs) :
    step s = .next s.timed.endCycle := by
  rw [step_of_ready s hr, if_neg fun hg => (s.timed_instrGate.1 hg).not_ge h]

/-- Settles O9: with both gates shut the cycle is the flag reset alone. -/
theorem quietCycleOnlyClearsFlags : Obligations.QuietCycleOnlyClearsFlags := by
  intro s hr htimer hinstr
  obtain ⟨-, -, -, htone⟩ := s.timed_of_no_tick htimer.not_gt
  refine ⟨_, step_of_shut s hr hinstr, by simp, by simp, by simpa using htone,
    State.endCycle_status_of_ready (State.timed_ready hr), by simp, callTaken_endCycle.2 s.callTaken_timed,
    inputsKept_endCycle.2 s.inputsKept_timed, ?_⟩
  exact (s.preserves_timed_of_no_tick htimer.not_gt).trans (s.timed.preserves_endCycle trivial)

/-- Settles O10: with the instruction gate shut the cycle is the flag reset and one decay. -/
theorem timerGateDecaysOnce : Obligations.TimerGateDecaysOnce := by
  intro s hr htimer hinstr
  obtain ⟨hdt, hst, htick, -⟩ := s.timed_of_tick htimer
  refine ⟨_, step_of_shut s hr hinstr, by simp [hdt, decayed_toNat], by simp [hst, decayed_toNat], by simp [htick],
    by simp [s.timed_toneOn_iff, htimer], by simp, by simp,
    State.endCycle_status_of_ready (State.timed_ready hr), by simp, callTaken_endCycle.2 s.callTaken_timed,
    inputsKept_endCycle.2 s.inputsKept_timed, ?_⟩
  exact s.preserves_timed.trans (s.timed.preserves_endCycle trivial)

/-- Settles O14: the core halts on the state the instruction gate was tested on, and the call ends there. -/
theorem fetchPastMemoryHalts : Obligations.FetchPastMemoryHalts := by
  intro s hr hpc hgate
  have hstep : step s = .next (s.timed.raise .pcOutOfBounds (some s.pc.toNat)) := by
    rw [step_of_ready s hr, if_pos (s.timed_instrGate.2 hgate),
      instrStep_of_outOfBounds _ _ (by rwa [s.timed_pc]), s.timed_pc, finishCycle_next, State.endCycle_of_halted rfl]
  exact ⟨_, hstep, s.timed.haltsWith_raise _ _, s.callTaken_timed, s.inputsKept_timed⟩

/-- A decode miss writes `PC`, the instruction time and the diagnostic (R96, R98). -/
theorem State.preserves_decodeMiss (now : Time) (w a : Word) :
    Preserves { pc := True, lastInstrTime := True, ports := True } s ((s.advance now).emitDecodeMiss w a) :=
  { Preserves.refl s _ with
    pc := fun h => absurd trivial h
    lastInstrTime := fun h => absurd trivial h
    ports := fun h => absurd trivial h }

/-- Settles O13: the cycle is the flag reset, the timer part, the fetch and the diagnostic. -/
theorem unrecognisedWordIsReportedAndSkipped : Obligations.UnrecognisedWordIsReportedAndSkipped := by
  rintro s e ⟨hr, hg, hb⟩ hd
  have hpc : s.pc.toNat + 1 < 4096 := by simpa using s.timed.pcInBounds_iff.1 hb
  have hstep : step s =
      .next ((s.timed.advance s.hostCall.now).emitDecodeMiss s.timed.fetchWord s.timed.pc).endCycle := by
    rw [step_of_ready s hr, if_pos hg, instrStep_of_decodeMiss _ _ hb hd, finishCycle_next]
  refine ⟨_, hstep, ?_, by simp, by simp [s.timed_fetchWord], State.endCycle_status_of_ready (State.timed_ready hr),
    callTaken_endCycle.2 s.callTaken_timed, inputsKept_endCycle.2 s.inputsKept_timed, ?_⟩
  · simpa using nextWord_toNat (a := s.pc) (by omega)
  · exact (s.timed.preserves_decodeMiss _ _ _).trans (State.preserves_endCycle _ trivial)

/-! ### Timer first -/

/-- Settles O12: the instruction runs on the state after the decay. -/
theorem timerGateComesFirst : Obligations.TimerGateComesFirst := by
  intro s x htimer
  obtain ⟨hdt, hst, -, -⟩ := s.timed_of_tick htimer
  refine ⟨fun h => ?_, fun h => ?_, fun h => ?_⟩ <;> refine ⟨_, step_of_runsInstr s h, ?_⟩
  · simp [hdt, decayed_toNat]
  · simp [hst, decayed_toNat]
  · simp [hdt, decayed_toNat]

/-! ### A halted core -/

/-- `t` returns the halt cause of `s` again, without the recorded value and with no diagnostic (R99, R100). -/
def RepeatsHalt (s t : State) : Prop :=
  t.ports = { t.ports with status := some (.fatal s.haltCause none), diagnostic := none }

theorem step_of_halted_eq (hh : s.halted = true) (hw : s.waiting = none) :
    step s = .next { s with ports := s.takeHostCall.haltedCycle.ports } := by
  rw [step_of_halted s hw hh, State.haltedCycle_eq, s.takeHostCall_eq]

theorem run_succ {s t : State} (n : Nat) (h : step s = .next t) :
    Sys2Proof.core.run (n + 1) s = Sys2Proof.core.run n t := by
  have hcore : Sys2Proof.core.step s = .next t := h
  simp only [Host.Core.run, hcore]

/-- Any number of steps from a halted core writes nothing but ports; the first of them puts the cause out, and every
later one keeps it so. -/
theorem run_of_halted {s : State} (n : Nat) (hh : s.halted = true) (hw : s.waiting = none) :
    ∃ p : Ports, Sys2Proof.core.run n s = .next { s with ports := p } ∧ InputsKept s { s with ports := p } ∧
      (RepeatsHalt s s ∨ 0 < n → RepeatsHalt s { s with ports := p }) := by
  induction n generalizing s with
  | zero => exact ⟨s.ports, rfl, ⟨⟨rfl, rfl⟩, rfl, rfl⟩, fun h => h.resolve_right (Nat.lt_irrefl 0)⟩
  | succ n ih =>
    have hstep := step_of_halted_eq s hh hw
    obtain ⟨p, hrun, ⟨⟨hbytes, hfree⟩, hanswers, hfree'⟩, hrep⟩ :=
      ih (s := { s with ports := s.takeHostCall.haltedCycle.ports }) hh hw
    obtain ⟨⟨kbytes, kfree⟩, kanswers, kfree'⟩ := s.inputsKept_takeHostCall
    refine ⟨p, ?_, ⟨⟨hbytes.trans kbytes, hfree.trans kfree⟩, hanswers.trans kanswers, hfree'.trans kfree'⟩,
      fun _ => hrep (.inl (by simp [RepeatsHalt]))⟩
    exact (run_succ n hstep).trans hrun

/-- Settles O15: the run changes the ports only, and after a step they repeat the halt. -/
theorem haltedCoreNeverChanges : Obligations.HaltedCoreNeverChanges := by
  intro s n hh hw
  obtain ⟨p, hrun, hkept, hrep⟩ := run_of_halted n hh hw
  exact ⟨_, hrun, rfl, hkept, fun hn => hrep (.inr hn)⟩

end Sys2Proof.Machine
end

section
/-! What a cycle exchanges with the host (R100, R227, R245): which ports one instruction can write, how it can leave the
core, and from these, by `step_cases`, what the step takes and puts out. -/

namespace Sys2Proof.Machine

/-! ### One instruction -/

theorem State.takeRandByte_ports (s : State) :
    s.takeRandByte.ports =
      { s.ports with
        randBytes := s.takeRandByte.ports.randBytes, freeBytes := s.takeRandByte.ports.freeBytes } := by
  unfold State.takeRandByte
  split <;> rfl

/-- A key wait takes an answer and may put a result out (R202, R226). -/
theorem State.keyWait_ports (s : State) (x : Reg) :
    (s.keyWait x).ports =
      { s.ports with
        keyAnswers := (s.keyWait x).ports.keyAnswers, freeAnswers := (s.keyWait x).ports.freeAnswers,
        status := (s.keyWait x).ports.status } := by
  unfold State.keyWait State.takeKeyAnswer
  split <;> split <;> rfl

/-- The ports an instruction can write: a draw for `RND`, an answer and the result for `LD Vx, K`, and the result alone
for every other. -/
theorem exec_ports {i : Instr} {s t : State} (h : exec i s = .next t) :
    t.ports = { s.ports with status := t.ports.status } ∨
    (∃ x nn, i = .rnd x nn ∧
      t.ports = { s.ports with randBytes := t.ports.randBytes, freeBytes := t.ports.freeBytes }) ∨
    (∃ x, i = .ldKey x ∧
      t.ports =
        { s.ports with
          keyAnswers := t.ports.keyAnswers, freeAnswers := t.ports.freeAnswers, status := t.ports.status }) := by
  cases i with
  | rnd x nn =>
    obtain rfl := Host.Outcome.next.inj h
    exact .inr (.inl ⟨x, nn, rfl, s.takeRandByte_ports⟩)
  | ldKey x =>
    obtain rfl := Host.Outcome.next.inj h
    exact .inr (.inr ⟨x, rfl, s.keyWait_ports x⟩)
  | ret | call | drw | bcd | storeRegs | loadRegs => obtain rfl | rfl := eq_or_eq_of_guarded h <;> simp
  | _ => obtain rfl := Host.Outcome.next.inj h; simp

/-- How an instruction can leave the core: as it was, halted with the recorded value of R227, or after a look at a key
wait. -/
theorem exec_leaves {i : Instr} {s t : State} (h : exec i s = .next t) :
    (t.halted = s.halted ∧ t.waiting = s.waiting) ∨
    (∃ cause, cause ≠ .none ∧ t = s.raise cause (s.raise cause none).recordedValue) ∨
    (∃ x, t = s.keyWait x) := by
  cases i with
  | ldKey x => exact .inr (.inr ⟨x, (Host.Outcome.next.inj h).symm⟩)
  | ret =>
    obtain rfl | rfl := eq_or_eq_of_guarded h
    · exact .inr (.inl ⟨.stackUnderflow, nofun, rfl⟩)
    · simp
  | call =>
    obtain rfl | rfl := eq_or_eq_of_guarded h
    · exact .inr (.inl ⟨.stackOverflow, nofun, rfl⟩)
    · simp
  | drw | bcd | storeRegs | loadRegs =>
    obtain rfl | rfl := eq_or_eq_of_guarded h
    · simp
    · exact .inr (.inl ⟨.memoryOutOfBounds, nofun, rfl⟩)
  | _ => obtain rfl := Host.Outcome.next.inj h; simp

/-! ### The result of a call -/

/-- The call returns `Running`, the fatal condition with its recorded value, or, blocked, nothing yet (R100, R227). -/
def State.Reports (t : State) : Prop :=
  (t.halted = false → t.waiting = none → t.ports.status = some .running) ∧
    (t.halted = true → t.haltCause ≠ .none ∧ t.ports.status = some (.fatal t.haltCause t.recordedValue)) ∧
    (t.waiting ≠ none → t.halted = false ∧ t.ports.status = none)

theorem State.reports_of_running {t : State} (h : t.ready) : t.endCycle.Reports := by
  simp [State.Reports, h.1, h.2]

theorem State.reports_of_raise {s : State} (hw : s.waiting = none) {cause : HaltCause} (hc : cause ≠ .none) :
    (s.raise cause (s.raise cause none).recordedValue).endCycle.Reports := by
  rw [State.endCycle_of_halted rfl]
  exact ⟨nofun, fun _ => ⟨hc, rfl⟩, fun hb => absurd hw hb⟩

theorem State.reports_of_keyWait {s : State} (hr : s.ready) (hs : s.ports.status = none) (x : Reg) :
    (s.keyWait x).endCycle.Reports := by
  have hs' : s.takeKeyAnswer.ports.status = none := by
    unfold State.takeKeyAnswer
    split <;> exact hs
  obtain ⟨k, -, e⟩ | ⟨-, e⟩ | ⟨-, e⟩ := s.keyWait_cases x <;> rw [e]
  · exact State.reports_of_running ⟨s.takeKeyAnswer_halted.trans hr.1, rfl⟩
  · rw [State.endCycle_of_halted rfl]
    exact ⟨nofun, fun _ => ⟨nofun, rfl⟩, fun hb => absurd rfl hb⟩
  · simp [State.Reports, hr.1, hs']

/-! ### One step -/

/-- What a cycle takes from the host and which diagnostic it can leave. -/
theorem step_exchange {s t : State} (hr : s.ready) (h : step s = .next t) :
    CallTaken s t ∧ (DrawsKept s t ∨ ∃ x nn, s.runsInstr (.rnd x nn)) ∧
      (AnswersKept s t ∨ ∃ x, s.runsInstr (.ldKey x)) ∧
      (t.ports.diagnostic = none ∨ s.fetches ∧ ∃ e, decodeWord s.timed.fetchWord = .error e) := by
  have hcall := s.callTaken_timed
  obtain ⟨hdraws, hanswers⟩ := s.inputsKept_timed
  obtain ⟨x, hw, -⟩ | ⟨-, hh, -⟩ | ⟨-, -, rfl⟩ | ⟨-, -, -, rfl⟩ | ⟨hf, he, rfl⟩ | ⟨i, u, hi, hu, rfl⟩ := step_cases h
  · cases hr.2.symm.trans hw -- a ready core is not blocked
  · cases hr.1.symm.trans hh -- a ready core has not halted
  all_goals rw [callTaken_endCycle, drawsKept_endCycle, answersKept_endCycle]
  · exact ⟨hcall, .inl hdraws, .inl hanswers, .inl (by simp)⟩ -- the instruction gate is shut
  · exact ⟨hcall, .inl hdraws, .inl hanswers, .inl (by simp)⟩ -- the fetch is out of bounds
  · exact ⟨hcall, .inl hdraws, .inl hanswers, .inr ⟨hf, he⟩⟩ -- the word is no instruction
  · -- an instruction runs
    simp only [CallTaken, DrawsKept, AnswersKept] at hcall hdraws hanswers ⊢
    obtain e | ⟨x, nn, rfl, e⟩ | ⟨x, rfl, e⟩ := exec_ports hu <;> rw [State.endCycle_ports, e]
    · exact ⟨hcall, .inl hdraws, .inl hanswers, .inl s.timed_diagnostic⟩
    · exact ⟨hcall, .inr ⟨x, nn, hi⟩, .inl hanswers, .inl s.timed_diagnostic⟩
    · exact ⟨hcall, .inl hdraws, .inr ⟨x, hi⟩, .inl s.timed_diagnostic⟩

theorem step_reports {s t : State} (hr : s.ready) (h : step s = .next t) : t.Reports := by
  have htimed := State.timed_ready hr
  have hfetched : (s.timed.advance s.hostCall.now).ready := htimed
  obtain ⟨x, hw, -⟩ | ⟨-, hh, -⟩ | ⟨-, -, rfl⟩ | ⟨-, -, -, rfl⟩ | ⟨-, -, rfl⟩ | ⟨i, u, -, hu, rfl⟩ := step_cases h
  · cases hr.2.symm.trans hw -- a ready core is not blocked
  · cases hr.1.symm.trans hh -- a ready core has not halted
  · exact State.reports_of_running htimed -- the instruction gate is shut
  · exact State.reports_of_raise htimed.2 nofun -- the fetch is out of bounds
  · exact State.reports_of_running hfetched -- the word is no instruction
  · -- an instruction runs
    obtain ⟨hh, hw⟩ | ⟨cause, hc, rfl⟩ | ⟨x, rfl⟩ := exec_leaves hu
    · exact State.reports_of_running ⟨hh.trans hfetched.1, hw.trans hfetched.2⟩
    · exact State.reports_of_raise hfetched.2 hc
    · exact State.reports_of_keyWait hfetched s.timed_status x

theorem instrStep_answers_next (now : Time) (s : State) : ∃ t, instrStep now s = .next t := by
  by_cases hb : s.pcInBounds = true
  · obtain ⟨i, hi⟩ | hmiss := decodeWord_total s.fetchWord
    · rw [instrStep_of_decoded s now hb hi]
      exact exec_answers_next _ i
    · exact ⟨_, instrStep_of_decodeMiss s now hb hmiss⟩
  · exact ⟨_, if_neg hb⟩

theorem step_of_ready_answers_next {s : State} (hr : s.ready) : ∃ t, step s = .next t := by
  rw [step_of_ready s hr]
  split
  · obtain ⟨t, ht⟩ := instrStep_answers_next s.hostCall.now s.timed
    exact ⟨_, by rw [ht, finishCycle_next]⟩
  · exact ⟨_, rfl⟩

/-- Settles O60, by what the step takes and what it reports. -/
theorem cycleExchangesPortValues : Obligations.CycleExchangesPortValues := by
  intro s hr
  obtain ⟨t, h⟩ := step_of_ready_answers_next hr
  obtain ⟨hcall, hdraws, hanswers, hdiag⟩ := step_exchange hr h
  obtain ⟨hrunning, hfatal, hblocked⟩ := step_reports hr h
  refine ⟨t, h, hcall, fun hno => ?_, fun hno => ?_, hrunning, hfatal, hblocked, fun i hi => ?_, hdiag.resolve_left⟩
  · exact hdraws.resolve_right fun ⟨x, nn, hi⟩ => hno x nn hi
  · exact hanswers.resolve_right fun ⟨x, hi⟩ => hno x hi
  · exact hdiag.resolve_right fun ⟨_, _, he⟩ => nomatch hi.2.symm.trans he

end Sys2Proof.Machine
end

section
/-! What the control-transfer instructions do (R110 to R117): a jump and a skip write `PC` alone, `CALL` and `RET` move
one stack entry or take the fatal condition of a full or an empty stack before any write (decisions D5 and D6). -/

namespace Sys2Proof.Machine

variable (s : State)

/-! ### Jumps and skips -/

/-- Settles O16: the address field is `PC`, and `PC` is all a jump writes. -/
theorem jumpLoadsAddress : Obligations.JumpLoadsAddress := fun nnn s =>
  ⟨_, rfl, zextAddr_toNat nnn, s.preserves_setPc _⟩

/-- Settles O17: the sum of the target does not carry out of 16 bits. -/
theorem indexedJumpAddsRegisterZero : Obligations.IndexedJumpAddsRegisterZero := fun nnn s =>
  ⟨_, rfl, s.indexedTarget_toNat nnn, s.preserves_setPc _⟩

/-- A skip writes `PC` alone, and advances it exactly when its test holds (R118). -/
theorem State.skipIf_pc_and_frame {taken : Bool} {p : Prop} [Decidable p] (h : taken = true ↔ p) :
    (s.skipIf taken).pc = (if p then s.pc + 2 else s.pc) ∧ Preserves { pc := True } s (s.skipIf taken) :=
  ⟨by simp only [State.skipIf_pc, h], s.preserves_skipIf taken⟩

/-- Settles O18: each skip is the shared one, on its own test. -/
theorem skipComparesImmediate : Obligations.SkipComparesImmediate := fun _ _ s =>
  ⟨⟨_, rfl, s.skipIf_pc_and_frame beq_iff_eq⟩, ⟨_, rfl, s.skipIf_pc_and_frame bne_iff_ne⟩⟩

/-- Settles O19: each skip is the shared one, on its own test. -/
theorem skipComparesRegisters : Obligations.SkipComparesRegisters := fun _ _ s =>
  ⟨⟨_, rfl, s.skipIf_pc_and_frame beq_iff_eq⟩, ⟨_, rfl, s.skipIf_pc_and_frame bne_iff_ne⟩⟩

/-! ### The call stack -/

theorem exec_call_of_room (nnn : Addr12) (h : s.sp < s.params.stackDepth) :
    exec (.call nnn) s = .next (s.pushPc.setPc (zextAddr nnn)) := if_neg h.not_ge

theorem exec_call_of_full (nnn : Addr12) (h : s.params.stackDepth ≤ s.sp) :
    exec (.call nnn) s = .next (s.raise .stackOverflow none) := if_pos h

theorem exec_ret_of_live (h : s.sp ≠ 0) : exec .ret s = .next s.popPc := if_neg h

theorem exec_ret_of_empty (h : s.sp = 0) : exec .ret s = .next (s.raise .stackUnderflow none) := if_pos h

/-- A transfer through the stack writes `PC`, `SP` and the stack, and nothing else. -/
theorem State.preserves_withStack (pc : Word) (sp : Nat) (stack : List Word) :
    Preserves { pc := True, stack := True } s { s with pc := pc, sp := sp, stack := stack } :=
  { Preserves.refl s _ with
    pc := fun h => absurd trivial h
    sp := fun h => absurd trivial h
    stack := fun h => absurd trivial h }

/-- A push stores `PC` in the entry `SP` names, when the stack has that entry (R112). -/
theorem State.pushPc_stack_same (h : s.sp < s.stack.length) : s.pushPc.stack[s.sp]? = some s.pc := by
  rw [State.pushPc_stack, List.getElem?_set_self h]

/-- A push leaves every other entry (R112). -/
theorem State.pushPc_stack_other {k : Nat} (h : k ≠ s.sp) : s.pushPc.stack[k]? = s.stack[k]? :=
  List.getElem?_set_ne h.symm

/-- A pop reads the entry below `SP`, when the stack has that entry (R110). -/
theorem State.getElem?_eq_popPc_pc (h : s.sp - 1 < s.stack.length) : s.stack[s.sp - 1]? = some s.popPc.pc := by
  rw [State.popPc_pc, List.getD_eq_getElem _ _ h, List.getElem?_eq_getElem h]

/-- Settles O21: with room it is a push and a jump, and a full stack is tested before either. -/
theorem callPushesReturnAddress : Obligations.CallPushesReturnAddress := by
  intro nnn s hlen _
  refine ⟨fun hroom => ?_, fun hfull => ?_⟩
  · exact ⟨_, exec_call_of_room s nnn hroom, zextAddr_toNat nnn, rfl, s.pushPc_stack_same (hlen ▸ hroom),
      fun _ hk => s.pushPc_stack_other hk, s.preserves_withStack _ _ _⟩
  · exact ⟨_, exec_call_of_full s nnn hfull.ge, s.haltsWith_raise _ _⟩

/-- Settles O22: with a live entry it is a pop, and an empty stack is tested before it. -/
theorem returnPopsAddress : Obligations.ReturnPopsAddress := by
  intro s hlen hsp
  refine ⟨fun hlive => ?_, fun hempty => ?_⟩
  · exact ⟨_, exec_ret_of_live s hlive.ne', s.getElem?_eq_popPc_pc (by omega), rfl, rfl, s.preserves_withStack _ _ _⟩
  · exact ⟨_, exec_ret_of_empty s hempty, s.haltsWith_raise _ _⟩

/-- Settles O23: the entry the `RET` pops is the one the `CALL` pushed, since a fetch does not touch the stack. -/
theorem returnAfterCallComesBack : Obligations.ReturnAfterCallComesBack := by
  intro nnn s hlen hroom
  refine ⟨_, exec_call_of_room s nnn hroom, fun pc now => ⟨_, exec_ret_of_live _ s.sp.succ_ne_zero, ?_, rfl⟩⟩
  have hpushed : s.pushPc.stack[s.sp]? = some s.pc := s.pushPc_stack_same (hlen ▸ hroom)
  have hentry : s.sp < s.pushPc.stack.length := by simpa [hlen] using hroom
  have hpopped := State.getElem?_eq_popPc_pc
    { s.pushPc.setPc (zextAddr nnn) with pc := pc, lastInstrTime := now } hentry
  exact Option.some.inj (hpopped.symm.trans hpushed)

end Sys2Proof.Machine
end

section
/-! What the loads and the arithmetic and logic instructions do (R130 to R143): one register written, or a result and
its flag in the order R143 fixes, the flag last for the sums and differences (decision D8) and first for the shifts
(decision D9). -/

namespace Sys2Proof.Machine

variable (s : State)

/-! ### The flags and the results, as numbers -/

theorem shiftedOutLow_toNat (a : Byte) : (shiftedOutLow a).toNat = a.toNat % 2 := by
  simp [shiftedOutLow, BitVec.toNat_and, Nat.and_one_is_mod]

theorem shiftedOutHigh_toNat (a : Byte) : (shiftedOutHigh a).toNat = a.toNat / 128 := by
  simp [shiftedOutHigh, BitVec.toNat_ushiftRight, Nat.shiftRight_eq_div_pow]

theorem shiftRight_one_toNat (a : Byte) : (a >>> 1).toNat = a.toNat / 2 := by
  simp [BitVec.toNat_ushiftRight, Nat.shiftRight_eq_div_pow]

theorem shiftLeft_one_toNat (a : Byte) : (a <<< 1).toNat = 2 * a.toNat % 256 := by
  simp [BitVec.toNat_shiftLeft, Nat.shiftLeft_eq, Nat.mul_comm]

theorem byte_sub_toNat (a b : Byte) : (a - b).toNat = (a.toNat + 256 - b.toNat) % 256 := by bv_omega

/-! ### The two orders of a result and its flag -/

/-- What a result and then the flag of a test leave: the flag in `VF` whatever the destination, the result in any
other destination, and the rest as it was (R143, decision D8). -/
theorem State.writeResultThenFlag_decide (x : Reg) {b : Byte} {n : Nat} {p : Prop} [Decidable p] (hb : b.toNat = n) :
    let t := s.writeResultThenFlag x b (decide p)
    t.readReg 15 = (if p then 1 else 0) ∧ (x ≠ 15 → (t.readReg x).toNat = n) ∧
      Preserves { regs := fun r => r = x ∨ r = 15 } s t := by
  refine ⟨?_, fun hx => ?_, s.preserves_writeResultThenFlag x b _⟩
  · simp [State.writeResultThenFlag_readReg, flagByte]
  · simp [State.writeResultThenFlag_readReg, hx, hb]

/-- With another destination the flag is of the old register, and so is the shift (R138, R140). -/
theorem State.flagThenShift_readReg_of_ne {x : Reg} (hx : x ≠ 15) (f g : Byte → Byte) :
    (s.flagThenShift x f g).readReg 15 = f (s.readReg x) ∧ (s.flagThenShift x f g).readReg x = g (s.readReg x) := by
  simp [State.flagThenShift_readReg, hx, hx.symm]

/-- With destination `VF` the flag itself is shifted (decision D9). -/
theorem State.flagThenShift_readReg_vf (f g : Byte → Byte) :
    (s.flagThenShift 15 f g).readReg 15 = g (f (s.readReg 15)) := by
  simp [State.flagThenShift_readReg]

/-! ### Shifts -/

/-- Settles O30, by the order of the two writes: the flag is at most 1, so half of it is 0 and its double does not
wrap. -/
theorem shiftsWriteFlagFirst : Obligations.ShiftsWriteFlagFirst := by
  intro x y s
  refine ⟨⟨_, rfl, fun hx => ?_, ?_, s.preserves_flagThenShift x _ _⟩,
    ⟨_, rfl, fun hx => ?_, ?_, s.preserves_flagThenShift x _ _⟩⟩
  · -- `SHR` of another register
    obtain ⟨hflag, hresult⟩ := s.flagThenShift_readReg_of_ne hx shiftedOutLow (· >>> 1)
    rw [hflag, hresult]
    exact ⟨shiftedOutLow_toNat _, shiftRight_one_toNat _⟩
  · -- `SHR VF`
    rintro rfl
    rw [State.flagThenShift_readReg_vf]
    apply BitVec.eq_of_toNat_eq
    rw [shiftRight_one_toNat, shiftedOutLow_toNat]
    exact Nat.div_eq_of_lt (Nat.mod_lt _ two_pos)
  · -- `SHL` of another register
    obtain ⟨hflag, hresult⟩ := s.flagThenShift_readReg_of_ne hx shiftedOutHigh (· <<< 1)
    rw [hflag, hresult]
    exact ⟨shiftedOutHigh_toNat _, shiftLeft_one_toNat _⟩
  · -- `SHL VF`
    rintro rfl
    rw [State.flagThenShift_readReg_vf, shiftLeft_one_toNat, shiftedOutHigh_toNat]
    have := (s.readReg 15).isLt
    omega

/-! ### Loads, logic, sums and differences -/

/-- Settles O25: either is one register write. -/
theorem immediateLoadAndAdd : Obligations.ImmediateLoadAndAdd := by
  intro x nn s
  refine ⟨⟨_, rfl, s.readReg_writeReg_same x _, s.preserves_writeReg x _⟩, ⟨_, rfl, ?_, s.preserves_writeReg x _⟩⟩
  rw [State.readReg_writeReg_same]
  exact BitVec.toNat_add _ _

/-- Settles O26: each is one register write, of the operation of its name on bytes. -/
theorem copyAndLogic : Obligations.CopyAndLogic := by
  intro x y s
  refine ⟨⟨_, rfl, s.readReg_writeReg_same x _, s.preserves_writeReg x _⟩,
    ⟨_, rfl, fun k => ?_, s.preserves_writeReg x _⟩, ⟨_, rfl, fun k => ?_, s.preserves_writeReg x _⟩,
    ⟨_, rfl, fun k => ?_, s.preserves_writeReg x _⟩⟩ <;> rw [State.readReg_writeReg_same]
  · exact BitVec.getLsbD_or
  · exact BitVec.getLsbD_and
  · exact BitVec.getLsbD_xor

/-- Settles O27: the sum, then the carry of R136. -/
theorem addSetsCarry : Obligations.AddSetsCarry := fun x _ s =>
  ⟨_, rfl, s.writeResultThenFlag_decide x (BitVec.toNat_add _ _)⟩

/-- Settles O28: the difference, then the strict comparison of R137. -/
theorem subtractSetsStrictFlag : Obligations.SubtractSetsStrictFlag := fun x _ s =>
  ⟨_, rfl, s.writeResultThenFlag_decide x (byte_sub_toNat _ _)⟩

/-- Settles O29: as `SUB`, with the operands exchanged (R139). -/
theorem reverseSubtractSetsStrictFlag : Obligations.ReverseSubtractSetsStrictFlag := fun x _ s =>
  ⟨_, rfl, s.writeResultThenFlag_decide x (byte_sub_toNat _ _)⟩

/-! ### The random draw -/

theorem State.randByte_of_nil (h : s.ports.randBytes = []) :
    s.randByte = Config.freeRandByte s.ports.freeBytes := by simp [State.randByte, h]

theorem State.takeRandByte_of_nil (h : s.ports.randBytes = []) :
    s.takeRandByte = { s with ports := { s.ports with freeBytes := s.ports.freeBytes + 1 } } := by
  simp [State.takeRandByte, h]

/-- Taking a draw and writing one register changes that register and the ports. -/
theorem State.preserves_takeRandByte_writeReg (x : Reg) (b : Byte) :
    Preserves { regs := fun r => r = x, ports := True } s (s.takeRandByte.writeReg x b) := by
  have hdraw : Preserves { regs := fun r => r = x, ports := True } s s.takeRandByte := by
    rw [s.takeRandByte_eq]
    exact s.preserves_withPorts trivial _
  exact hdraw.trans { s.takeRandByte.preserves_writeReg x b with ports := fun _ => rfl }

/-- Settles O31: `RND` takes the draw, written out or free, and writes its masked value. -/
theorem randomIsMaskedDraw : Obligations.RandomIsMaskedDraw := by
  intro x nn s
  refine ⟨_, rfl, fun k => ?_, fun r rest h => ?_, fun h => ?_, s.preserves_takeRandByte_writeReg x _⟩
  · rw [State.readReg_writeReg_same]
    exact BitVec.getLsbD_and
  · exact ⟨s.randByte_of_cons h, congrArg State.ports (s.takeRandByte_of_cons h)⟩
  · exact ⟨s.randByte_of_nil h, congrArg State.ports (s.takeRandByte_of_nil h)⟩

end Sys2Proof.Machine
end

section
/-! What the index and memory instructions do (R160 to R166): `LD I`, `ADD I` and `LD F` write `I` alone; `BCD` and the
block transfers are one access at `I`, tested whole before any write, so it is done or the core halts with nothing
else changed (R55, decision D7). -/

namespace Sys2Proof.Machine

variable (s : State)

/-! ### The index register -/

theorem zextByte_toNat (b : Byte) : (zextByte b).toNat = b.toNat := BitVec.toNat_setWidth_of_le (by decide)

/-- Five times a byte does not carry out of 16 bits (R162). -/
theorem glyphAddr_toNat (b : Byte) : (glyphAddr b).toNat = 5 * b.toNat := by
  have := b.isLt
  rw [glyphAddr, BitVec.toNat_mul, zextByte_toNat, Nat.mul_comm]
  exact Nat.mod_eq_of_lt (by omega : 5 * b.toNat < 2 ^ 16)

/-- Settles O33: either is one write of `I`, and the sum keeps 16 bits. -/
theorem indexLoadAndAdd : Obligations.IndexLoadAndAdd := by
  refine ⟨fun nnn s => ⟨_, rfl, zextAddr_toNat nnn, s.preserves_setI _⟩, fun x s => ⟨_, rfl, ?_, s.preserves_setI _⟩⟩
  rw [State.setI_i, BitVec.toNat_add, zextByte_toNat]

/-- Settles O34: the glyph address is taken from the whole byte (decision D14). -/
theorem glyphAddressIsFiveTimesRegister : Obligations.GlyphAddressIsFiveTimesRegister := fun _ s =>
  ⟨_, rfl, glyphAddr_toNat _, s.preserves_setI _⟩

/-! ### When an access fits -/

/-- An access of `n + 1` bytes fits exactly when its last address is at most 4095 (R55). -/
theorem State.accessFits_succ_iff (n : Nat) : s.accessFits (n + 1) = true ↔ s.i.toNat + n ≤ 4095 := by
  rw [State.accessFits_iff, Config.memSize]
  omega

theorem exec_bcd_of_fits {x : Reg} (hfit : s.i.toNat ≤ 4093) :
    exec (.bcd x) s = .next (s.writeBytes (s.effAddr 0) (bcdDigits (s.readReg x))) :=
  if_pos ((s.accessFits_succ_iff 2).2 (by omega))

theorem exec_bcd_of_outOfBounds {x : Reg} (hout : 4093 < s.i.toNat) : exec (.bcd x) s = .next s.raiseMemory :=
  if_neg (mt (s.accessFits_succ_iff 2).1 (by omega))

theorem exec_storeRegs_of_outOfBounds {x : Reg} (hout : 4095 < s.i.toNat + x.val) :
    exec (.storeRegs x) s = .next s.raiseMemory := if_neg (mt (s.accessFits_succ_iff _).1 hout.not_ge)

theorem exec_loadRegs_of_fits {x : Reg} (hfit : s.i.toNat + x.val ≤ 4095) :
    exec (.loadRegs x) s = .next (s.loadBlock x) := if_pos ((s.accessFits_succ_iff _).2 hfit)

theorem exec_loadRegs_of_outOfBounds {x : Reg} (hout : 4095 < s.i.toNat + x.val) :
    exec (.loadRegs x) s = .next s.raiseMemory := if_neg (mt (s.accessFits_succ_iff _).1 hout.not_ge)

/-! ### Decimal digits -/

/-- Digit `k` reads back at `I + k` as the number it is: no digit exceeds the byte it is taken from, so its own byte
holds it (R163). -/
theorem State.readByte_storeDigits_toNat {b : Byte} {k n : Nat} (hwf : Memory.wf s.params.glyphs s.mem = true)
    (hfit : s.i.toNat ≤ 4093) (hn : n ≤ b.toNat) (hdigit : (bcdDigits b)[k]? = some (BitVec.ofNat 8 n)) :
    ((s.writeBytes (s.effAddr 0) (bcdDigits b)).readByte (s.effAddr k)).toNat = n := by
  obtain ⟨hk, hget⟩ := List.getElem?_eq_some_iff.1 hdigit
  have hend : s.effAddr 0 + (bcdDigits b).length ≤ Config.memSize := Nat.add_le_add_right hfit 3
  have hread := s.readByte_writeBytes_inside _ _ k hk hwf hend
  calc ((s.writeBytes (s.effAddr 0) (bcdDigits b)).readByte (s.effAddr 0 + k)).toNat
    _ = (BitVec.ofNat 8 n).toNat := congrArg BitVec.toNat (hread.trans hget)
    _ = n := Nat.mod_eq_of_lt (hn.trans_lt b.isLt)

/-- Settles O35: where three bytes fit the digits are stored, and otherwise the core halts before any write. -/
theorem bcdStoresDecimalDigits : Obligations.BcdStoresDecimalDigits := by
  intro x s hwf
  refine ⟨fun hfit => ⟨_, exec_bcd_of_fits s hfit, ?_, ?_, ?_, s.preserves_writeBytes _ (bcdDigits (s.readReg x))⟩,
    fun hout => ⟨_, exec_bcd_of_outOfBounds s hout, s.haltsWith_raiseMemory⟩⟩
  · exact s.readByte_storeDigits_toNat hwf hfit (Nat.div_le_self _ _) rfl
  · exact s.readByte_storeDigits_toNat hwf hfit ((Nat.mod_le _ _).trans (Nat.div_le_self _ _)) rfl
  · exact s.readByte_storeDigits_toNat hwf hfit (Nat.mod_le _ _) rfl

/-! ### Block transfers -/

/-- Settles O36: where the block fits it is stored, and otherwise the core halts before any write. -/
theorem blockStoreCopiesRegisters : Obligations.BlockStoreCopiesRegisters := by
  intro x s hwf
  refine ⟨fun hfit => ?_, fun hout => ⟨_, exec_storeRegs_of_outOfBounds s hout, s.haltsWith_raiseMemory⟩⟩
  have hframe := s.preserves_writeBytes (s.effAddr 0) (s.regBlock x)
  rw [s.length_regBlock] at hframe
  exact ⟨_, exec_storeRegs_of_fits s hfit, fun k hk => s.readByte_storeBlock hwf hfit hk, hframe⟩

/-- Settles O37: where the block fits it is loaded, and otherwise the core halts before any write. -/
theorem blockLoadCopiesMemory : Obligations.BlockLoadCopiesMemory := by
  intro x s
  refine ⟨fun hfit => ?_, fun hout => ⟨_, exec_loadRegs_of_outOfBounds s hout, s.haltsWith_raiseMemory⟩⟩
  refine ⟨_, exec_loadRegs_of_fits s hfit, fun k hk => ?_, s.preserves_loadBlock x⟩
  rw [s.loadBlock_readReg, if_pos hk]

end Sys2Proof.Machine
end

section
/-! What the display instructions do (R180 to R183): `CLS` turns every cell off; `DRW` toggles the cells under the
sprite's pixels when the sprite's bytes are all in memory, and otherwise halts with nothing drawn (R55, decision D7).
What `DRW` reads it leaves alone, so the same draw again toggles the same cells back. -/

namespace Sys2Proof.Machine

variable (s : State)

/-! ### Clearing -/

theorem State.preserves_clear (fb : Framebuffer) :
    Preserves { fb := True, displayCleared := True } s { s.setFb fb with displayCleared := true } :=
  { Preserves.refl s _ with
    fb := fun h => absurd trivial h
    displayCleared := fun h => absurd trivial h }

/-- Settles O40: `CLS` writes the blank framebuffer and its flag. -/
theorem clearTurnsEveryCellOff : Obligations.ClearTurnsEveryCellOff := fun s =>
  ⟨_, rfl, fun y x _ _ => Framebuffer.cell_blank y x, rfl, s.preserves_clear _⟩

/-! ### One draw -/

/-- What `DRW Vx, Vy, N` draws where nothing faults: the framebuffer it leaves, and its collision (R182). -/
def State.drawing (x y : Reg) (n : Nat) : Drawing :=
  s.drawSprite (s.startRow y) (s.startCol x) (s.visibleRows y n) (s.visibleCols x)

/-- The state a `DRW Vx, Vy, N` that does not fault leaves (R182). -/
def State.drawn (x y : Reg) (n : Nat) : State :=
  { (s.setFb (s.drawing x y n).1).writeReg Reg.vf (flagByte (s.drawing x y n).2) with displayDirty := true }

variable (x y : Reg) (n : Nat)

theorem exec_drw_of_fits (hfit : s.accessFits (s.visibleRows y n) = true) :
    exec (.drw x y n) s = .next (s.drawn x y n) := if_pos hfit

theorem exec_drw_of_outOfBounds (hout : ¬ s.accessFits (s.visibleRows y n) = true) :
    exec (.drw x y n) s = .next s.raiseMemory := if_neg hout

theorem State.drawn_cell (q p : Nat) :
    (s.drawn x y n).fb.cell q p = (s.fb.cell q p ^^ s.drawnPixel x y n q p) :=
  have ⟨hrows, hcols⟩ := s.visible_bounds x y n
  (s.drawSprite_spec _ _ _ _ hrows hcols).1 q p

theorem flagByte_eq_zero_or_one (f : Bool) : flagByte f = 0 ∨ flagByte f = 1 := by cases f <;> simp [flagByte]

theorem flagByte_eq_one_iff (f : Bool) : flagByte f = 1 ↔ f = true := by cases f <;> simp [flagByte]

theorem State.drawn_vf : (s.drawn x y n).readReg 15 = flagByte (s.drawing x y n).2 :=
  State.readReg_writeReg_same _ Reg.vf _

/-- The collision of a draw: a drawn pixel lay over an on cell (R182). -/
theorem State.drawn_vf_eq_one_iff :
    (s.drawn x y n).readReg 15 = 1 ↔ ∃ q p, s.drawnPixel x y n q p = true ∧ s.fb.cell q p = true := by
  obtain ⟨hrows, hcols⟩ := s.visible_bounds x y n
  rw [s.drawn_vf, flagByte_eq_one_iff]
  exact (s.drawSprite_spec _ _ _ _ hrows hcols).2

theorem State.drawn_vf_eq_zero_or_one : (s.drawn x y n).readReg 15 = 0 ∨ (s.drawn x y n).readReg 15 = 1 := by
  rw [s.drawn_vf]
  exact flagByte_eq_zero_or_one _

theorem State.preserves_drawn :
    Preserves { regs := fun r => r = 15, fb := True, displayDirty := True } s (s.drawn x y n) :=
  { Preserves.refl s _ with
    regs := fun _ hr => State.readReg_writeReg_other _ hr _
    fb := fun h => absurd trivial h
    displayDirty := fun h => absurd trivial h }

/-- An access fits when it is empty or ends at 4095 or below (R55, decision D11 for the empty one). -/
theorem State.accessFits_iff_end_le (n : Nat) : s.accessFits n = true ↔ n = 0 ∨ s.i.toNat + n ≤ 4096 := by
  rw [State.accessFits_iff, Config.memSize]
  omega

/-- Settles O41: where the visible rows fit it is a draw, and otherwise the core halts before any write. -/
theorem drawXorsSprite : Obligations.DrawXorsSprite := by
  intro x y n s
  refine ⟨fun hfit => ?_, fun hrows hout => ?_⟩
  · exact ⟨_, exec_drw_of_fits s x y n ((s.accessFits_iff_end_le _).2 hfit), s.drawn_cell x y n,
      s.drawn_vf_eq_zero_or_one x y n, s.drawn_vf_eq_one_iff x y n, rfl, s.preserves_drawn x y n⟩
  · have hfault := mt (s.accessFits_iff_end_le _).1 (not_or.2 ⟨hrows.ne', hout.not_ge⟩)
    exact ⟨_, exec_drw_of_outOfBounds s x y n hfault, s.haltsWith_raiseMemory⟩

/-! ### The same draw twice -/

/-- Two states on which every `DRW` draws the same sprite: all it reads but the framebuffer is the same, and it does not
read `VF` (R182, decision D10). -/
structure SameSprites (s t : State) : Prop where
  regs : ∀ r, r ≠ 15 → t.readReg r = s.readReg r
  i : t.i = s.i
  bytes : ∀ a, t.readByte a = s.readByte a

namespace SameSprites

variable {s t : State} (h : SameSprites s t)
include h

theorem coordinate (r : Reg) : t.coordinate r = s.coordinate r := by
  by_cases hr : r = Reg.vf
  · simp only [State.coordinate, if_pos hr]
  · simp only [State.coordinate, if_neg hr, h.regs r hr]

theorem startRow : t.startRow y = s.startRow y := congrArg (· % Config.fbHeight) (h.coordinate y)

theorem startCol : t.startCol x = s.startCol x := congrArg (· % Config.fbWidth) (h.coordinate x)

theorem visibleRows : t.visibleRows y n = s.visibleRows y n := by
  rw [State.visibleRows, State.visibleRows, h.startRow]

theorem visibleCols : t.visibleCols x = s.visibleCols x := by
  rw [State.visibleCols, State.visibleCols, h.startCol]

theorem accessFits : t.accessFits (t.visibleRows y n) = s.accessFits (s.visibleRows y n) := by
  rw [State.accessFits, State.accessFits, h.visibleRows, h.i]

theorem drawnPixel (q p : Nat) : t.drawnPixel x y n q p = s.drawnPixel x y n q p := by
  simp only [State.drawnPixel, State.spritePixel, h.startRow, h.startCol, h.visibleRows, h.visibleCols, h.i, h.bytes]

end SameSprites

/-- A drawn pixel is on screen: rows and columns past the edges are clipped (R182). -/
theorem State.onScreen_of_drawnPixel {q p : Nat} (h : s.drawnPixel x y n q p = true) : q < 32 ∧ p < 64 := by
  obtain ⟨hrows, hcols⟩ := s.visible_bounds x y n
  simp only [State.drawnPixel, State.spritePixel, Bool.and_eq_true, decide_eq_true_eq] at h
  omega

/-- The second of two equal draws collides exactly where a pixel of the first turned a cell on (R183). -/
theorem State.drawn_vf_eq_one_iff_of_drawn {t : State} (hsame : SameSprites s t) (hfb : t.fb = (s.drawn x y n).fb) :
    (t.drawn x y n).readReg 15 = 1 ↔
      ∃ q p, s.drawnPixel x y n q p = true ∧ s.fb.cell q p = false ∧ q < 32 ∧ p < 64 := by
  have hit (q p : Nat) : (t.drawnPixel x y n q p = true ∧ t.fb.cell q p = true) ↔
      (s.drawnPixel x y n q p = true ∧ s.fb.cell q p = false ∧ q < 32 ∧ p < 64) := by
    rw [hsame.drawnPixel, hfb, s.drawn_cell]
    refine and_congr_right fun hpixel => ?_
    simp [hpixel, s.onScreen_of_drawnPixel x y n hpixel]
  simp only [t.drawn_vf_eq_one_iff, hit]

/-- Toggling the same cells twice restores every cell (R183). -/
theorem State.drawn_fb_of_drawn {t : State} (hsame : SameSprites s t) (hfb : t.fb = (s.drawn x y n).fb) :
    (t.drawn x y n).fb = s.fb := by
  refine Framebuffer.ext_cell fun q p => ?_
  calc (t.drawn x y n).fb.cell q p
    _ = (t.fb.cell q p ^^ t.drawnPixel x y n q p) := t.drawn_cell x y n q p
    _ = ((s.fb.cell q p ^^ s.drawnPixel x y n q p) ^^ s.drawnPixel x y n q p) := by
      rw [hsame.drawnPixel, hfb, s.drawn_cell]
    _ = s.fb.cell q p := by rw [Bool.xor_assoc, Bool.xor_self, Bool.xor_false]

/-- Settles O42: a draw changes nothing a `DRW` reads but the framebuffer, so the second draws the same sprite on what
the first left. -/
theorem drawingTwiceRestoresScreen : Obligations.DrawingTwiceRestoresScreen := by
  intro x y n s hfit
  refine ⟨_, exec_drw_of_fits s x y n hfit, fun t hfb hv hi hmem hparams => ?_⟩
  have hsame : SameSprites s t :=
    { regs := fun r hr => (congrArg (·.get r) hv).trans ((s.preserves_drawn x y n).regs r hr)
      i := hi
      bytes := fun a => by rw [State.readByte, hparams, hmem]; rfl }
  exact ⟨_, exec_drw_of_fits t x y n ((hsame.accessFits y n).trans hfit), s.drawn_fb_of_drawn x y n hsame hfb,
    t.drawn_vf_eq_zero_or_one x y n, s.drawn_vf_eq_one_iff_of_drawn x y n hsame hfb⟩

end Sys2Proof.Machine
end

section
/-! What the keypad and timer instructions do (R200 to R206): the skips test the key snapshot of their own cycle, a key
wait does one of three things by the answer it finds, also where it resumes in a blocked core, and a timer transfer moves
one byte. -/

namespace Sys2Proof.Machine

variable (s : State)

/-! ### A key wait, answer by answer -/

@[simp] theorem State.takeKeyAnswer_calls : s.takeKeyAnswer.ports.calls = s.ports.calls := by
  unfold State.takeKeyAnswer; split <;> rfl

@[simp] theorem State.takeKeyAnswer_freeCalls : s.takeKeyAnswer.ports.freeCalls = s.ports.freeCalls := by
  unfold State.takeKeyAnswer; split <;> rfl

@[simp] theorem State.takeKeyAnswer_status : s.takeKeyAnswer.ports.status = s.ports.status := by
  unfold State.takeKeyAnswer; split <;> rfl

theorem State.keyAnswer_of_nil (h : s.ports.keyAnswers = []) :
    s.keyAnswer = Config.freeKeyAnswer s.ports.freeAnswers := by simp [State.keyAnswer, h]

theorem State.takeKeyAnswer_of_nil (h : s.ports.keyAnswers = []) :
    s.takeKeyAnswer = { s with ports := { s.ports with freeAnswers := s.ports.freeAnswers + 1 } } := by
  simp [State.takeKeyAnswer, h]

theorem State.preserves_takeKeyAnswer {m : MayChange} (hm : m.ports) : Preserves m s s.takeKeyAnswer := by
  rw [s.takeKeyAnswer_eq]
  exact s.preserves_withPorts hm _

variable {s} {x : Reg}

/-- A key press is stored and ends the wait (R202). -/
theorem State.keyWait_of_key {k : Reg} (h : s.keyAnswer = .key k) :
    ((s.keyWait x).readReg x).toNat = k.val ∧ (s.keyWait x).waiting = none ∧
      (s.keyWait x).ports = s.takeKeyAnswer.ports ∧
      Preserves { regs := fun r => r = x, waiting := True, ports := True } s (s.keyWait x) := by
  have e : s.keyWait x = { s.takeKeyAnswer.writeReg x (BitVec.ofNat 8 k.val) with waiting := none } := by
    rw [State.keyWait, h]
  rw [e]
  refine ⟨?_, rfl, rfl, (s.preserves_takeKeyAnswer trivial).trans ?_⟩
  · have hread := s.takeKeyAnswer.readReg_writeReg_same x (BitVec.ofNat 8 k.val)
    exact (congrArg BitVec.toNat hread).trans (Nat.mod_eq_of_lt (k.isLt.trans (by decide)))
  · exact { s.takeKeyAnswer.preserves_writeReg x _ with
      waiting := fun hn => absurd trivial hn
      ports := fun _ => rfl }

/-- The terminate signal halts the core and ends the wait; the register is left alone (R226, decision D23). -/
theorem State.keyWait_of_terminate (h : s.keyAnswer = .terminate) :
    (s.keyWait x).halted = true ∧ (s.keyWait x).haltCause = .terminated ∧ (s.keyWait x).waiting = none ∧
      (s.keyWait x).ports = { s.takeKeyAnswer.ports with status := some (.fatal .terminated none) } ∧
      Preserves { halt := True, waiting := True, ports := True } s.takeKeyAnswer (s.keyWait x) := by
  have e : s.keyWait x = { s.takeKeyAnswer.raise .terminated none with waiting := none } := by
    rw [State.keyWait, h]
  obtain ⟨-, -, -, hraise⟩ := s.takeKeyAnswer.haltsWith_raise .terminated none
  rw [e]
  exact ⟨rfl, rfl, rfl, rfl, { hraise with waiting := fun hn => absurd trivial hn }⟩

/-- With no answer yet the core is blocked on the register (R252, decision D24). -/
theorem State.keyWait_of_notYet (h : s.keyAnswer = .notYet) :
    (s.keyWait x).waiting = some x ∧ (s.keyWait x).ports = s.takeKeyAnswer.ports ∧
      Preserves { waiting := True, ports := True } s (s.keyWait x) := by
  have e : s.keyWait x = { s.takeKeyAnswer with waiting := some x } := by rw [State.keyWait, h]
  rw [e]
  exact ⟨rfl, rfl, (s.preserves_takeKeyAnswer trivial).trans
    { Preserves.refl _ _ with waiting := fun hn => absurd trivial hn }⟩

/-- Settles O46, answer by answer: a ready core waits on no register before, and only a core with no answer waits on one
after. -/
theorem keyWaitStoresKeyHaltsOrBlocks : Obligations.KeyWaitStoresKeyHaltsOrBlocks := by
  intro x s hr
  refine ⟨fun k h => ?_, fun h => ?_, fun h => ?_, fun a rest h => ?_, fun h => ?_⟩
  · obtain ⟨hreg, hwait, hports, hframe⟩ := State.keyWait_of_key (x := x) h
    exact ⟨_, rfl, hreg, hports, { hframe with waiting := fun _ => hwait.trans hr.2.symm }⟩
  · obtain ⟨hhalt, hcause, hwait, hports, hframe⟩ := State.keyWait_of_terminate (x := x) h
    have hready : Preserves { halt := True, ports := True } s.takeKeyAnswer (s.keyWait x) :=
      { hframe with waiting := fun _ => hwait.trans (s.takeKeyAnswer_waiting.trans hr.2).symm }
    exact ⟨_, rfl, ⟨hhalt, hcause, hports, hready⟩, (s.preserves_takeKeyAnswer trivial).trans hready⟩
  · obtain ⟨hwait, hports, hframe⟩ := State.keyWait_of_notYet (x := x) h
    exact ⟨_, rfl, hwait, hports, hframe⟩
  · exact ⟨s.keyAnswer_of_cons h, s.takeKeyAnswer_of_cons h⟩
  · exact ⟨s.keyAnswer_of_nil h, s.takeKeyAnswer_of_nil h⟩

/-- A call whose key wait is still blocked has not returned (R202). -/
theorem State.endCycle_of_waiting (h : s.waiting = some x) : s.endCycle = s := by simp [State.endCycle, h]

/-- Settles O47, answer by answer: the step is one look at the key wait, then the end of the call if it has ended. -/
theorem blockedCoreOnlyWaits : Obligations.BlockedCoreOnlyWaits := by
  intro x s hw hh
  have hstep := step_of_waiting s hw
  refine ⟨fun h => ?_, fun k h => ?_, fun h => ?_⟩
  · obtain ⟨hwait, hports, hframe⟩ := State.keyWait_of_notYet (x := x) h
    rw [State.endCycle_of_waiting hwait] at hstep
    exact ⟨_, hstep, by simp [hports], by simp [hports], hports, by simp [hports],
      { hframe with waiting := fun _ => hwait.trans hw.symm }⟩
  · obtain ⟨hreg, hwait, hports, hframe⟩ := State.keyWait_of_key (x := x) h
    have hrun : (s.keyWait x).halted = false := (hframe.halted id).trans hh
    exact ⟨_, hstep, by simpa using hreg, by simpa using hwait, by simp [hports], by simp [hports],
      by simp [hports, hrun, hwait], hframe.trans (State.preserves_endCycle _ trivial)⟩
  · obtain ⟨hhalt, hcause, -, hports, hframe⟩ := State.keyWait_of_terminate (x := x) h
    rw [State.endCycle_of_halted hhalt] at hstep
    exact ⟨_, hstep, hhalt, hcause, by simp [hports], by simp [hports], hports,
      (s.preserves_takeKeyAnswer trivial).trans hframe⟩

/-! ### The skips on a key -/

variable (s)

/-- A register above 15 names no key (R200, decision D13). -/
theorem State.keyPressed_iff (b : Byte) :
    s.keyPressed b = true ↔ b.toNat ≤ 15 ∧ s.ports.keys.getLsbD b.toNat = true := by simp [State.keyPressed]

/-- In a cycle that runs an instruction the snapshot is the `keys` argument of the cycle's own call (R94, R206). -/
theorem State.fetched_keyPressed_iff (b : Byte) :
    (s.timed.advance s.hostCall.now).keyPressed b = true ↔ b.toNat ≤ 15 ∧ s.hostCall.keys.getLsbD b.toNat = true := by
  rw [State.keyPressed_iff, State.advance_ports, s.timed_ports]

/-- The negation of a test decides the negation of its condition: what `SKNP` needs of `SKP`'s test (R201). -/
theorem not_eq_true_iff_not {b : Bool} {p : Prop} (h : b = true ↔ p) : (!b) = true ↔ ¬ p :=
  (Bool.not_eq_true' b).to_iff.trans (Bool.eq_false_iff.trans (not_congr h))

variable {s}

/-- After a cycle that runs a skip, `PC` has passed one word or two, without wrapping (R96, R118). -/
theorem State.skipIf_endCycle_pc_toNat (hf : s.fetches) {taken : Bool} {p : Prop} [Decidable p] (h : taken = true ↔ p) :
    ((s.timed.advance s.hostCall.now).skipIf taken).endCycle.pc.toNat =
      if p then s.pc.toNat + 4 else s.pc.toNat + 2 := by
  obtain ⟨-, -, hb⟩ := hf
  have hpc : s.pc.toNat + 1 < 4096 := by simpa using s.timed.pcInBounds_iff.1 hb
  have hnext : (s.pc + 2).toNat = s.pc.toNat + 2 := nextWord_toNat (by omega)
  simp only [State.endCycle_pc, State.skipIf_pc, State.advance_pc, State.timed_pc, h]
  split
  · rw [nextWord_toNat (by omega), hnext]
  · exact hnext

/-- Settles O20: each skip is the shared one, on the snapshot; in a step that is the snapshot of this cycle's call. -/
theorem skipTestsKeySnapshot : Obligations.SkipTestsKeySnapshot := by
  refine ⟨fun x s => ⟨?_, ?_⟩, fun x s h => ?_, fun x s h => ?_⟩
  · exact ⟨_, rfl, s.skipIf_pc_and_frame (s.keyPressed_iff _)⟩
  · have hskip := s.skipIf_pc_and_frame (not_eq_true_iff_not (s.keyPressed_iff (s.readReg x)))
    rw [ite_not] at hskip
    exact ⟨_, rfl, hskip⟩
  · have hpc := State.skipIf_endCycle_pc_toNat h.1 (s.fetched_keyPressed_iff (s.readReg x))
    exact ⟨_, step_of_runsInstr s h, by simpa using hpc⟩
  · have hpc := State.skipIf_endCycle_pc_toNat h.1 (not_eq_true_iff_not (s.fetched_keyPressed_iff (s.readReg x)))
    rw [ite_not] at hpc
    exact ⟨_, step_of_runsInstr s h, by simpa using hpc⟩

/-! ### The timer transfers -/

/-- Settles O48: the byte moved is the one write, of a register, of `DT` or of `ST`. -/
theorem timerTransfersMoveOneByte : Obligations.TimerTransfersMoveOneByte := fun x s =>
  ⟨⟨_, rfl, s.readReg_writeReg_same x _, s.preserves_writeReg x _⟩,
    ⟨_, rfl, rfl, { Preserves.refl s _ with dt := fun h => absurd trivial h }⟩,
    ⟨_, rfl, rfl, { Preserves.refl s _ with st := fun h => absurd trivial h }⟩⟩

end Sys2Proof.Machine
end

section
/-! Repeated decay and the exceptions (R220 to R241): what a run of timer decays leaves, that every step answers, and
which conditions halt the core inside an instruction. -/

namespace Sys2Proof.Machine

/-! ### Repeated decay -/

theorem decayed_iterate_toNat (b : Byte) (n : Nat) : (decayed^[n] b).toNat = b.toNat - n := by
  induction n with
  | zero => rfl
  | succ n ih => rw [Function.iterate_succ_apply', decayed_toNat, ih, Nat.sub_sub]

theorem State.timerDecay_iterate_dt (s : State) (n : Nat) : (State.timerDecay^[n] s).dt = decayed^[n] s.dt :=
  (Function.Semiconj.iterate_right (f := State.dt) State.timerDecay_dt n).eq s

theorem State.timerDecay_iterate_st (s : State) (n : Nat) : (State.timerDecay^[n] s).st = decayed^[n] s.st :=
  (Function.Semiconj.iterate_right (f := State.st) State.timerDecay_st n).eq s

/-- The tone flag is that of the last decay, which found `ST` `n` lower (R241, decision D17). -/
theorem State.timerDecay_iterate_toneOn_iff (s : State) (n : Nat) :
    (State.timerDecay^[n + 1] s).toneOn = true ↔ n + 1 < s.st.toNat := by
  rw [Function.iterate_succ_apply', State.timerDecay_toneOn, decide_eq_true_iff, decayed_pos_iff,
    State.timerDecay_iterate_st, decayed_iterate_toNat]
  omega

/-- A decay writes the timers and the tone flag (R240). -/
theorem State.preserves_timerDecay (s : State) :
    Preserves { dt := True, st := True, toneOn := True } s s.timerDecay :=
  { Preserves.refl s _ with
    dt := fun h => absurd trivial h
    st := fun h => absurd trivial h
    toneOn := fun h => absurd trivial h }

/-- A frame that every update of a run keeps is kept by the run. -/
theorem Preserves.iterate {m : MayChange} {f : State → State} (hf : ∀ s, Preserves m s (f s)) (n : Nat) (s : State) :
    Preserves m s (f^[n] s) := by
  induction n with
  | zero => exact Preserves.refl s m
  | succ n ih =>
    rw [Function.iterate_succ_apply']
    exact ih.trans (hf _)

/-- Settles O11: the timers count down each on its own, and the last decay leaves the tone flag. -/
theorem decaysCountDownToZero : Obligations.DecaysCountDownToZero := by
  refine fun s n => ⟨?_, ?_, fun hn => ?_, Preserves.iterate State.preserves_timerDecay n s⟩
  · rw [s.timerDecay_iterate_dt, decayed_iterate_toNat]
  · rw [s.timerDecay_iterate_st, decayed_iterate_toNat]
  · obtain ⟨k, rfl⟩ := Nat.exists_eq_add_one.2 hn
    exact s.timerDecay_iterate_toneOn_iff k

/-! ### Every step answers -/

/-- Settles O50: a blocked core looks at its key wait, a halted one repeats its halt, and a ready one ends its cycle. -/
theorem everyStepAnswersNext : Obligations.EveryStepAnswersNext := by
  intro s
  cases hw : s.waiting with
  | some x => exact ⟨_, step_of_waiting s hw⟩
  | none =>
    cases hh : s.halted with
    | true => exact ⟨_, step_of_halted s hw hh⟩
    | false => exact step_of_ready_answers_next ⟨hh, hw⟩

/-! ### What halts the core inside an instruction -/

variable {s t u : State}

/-- Of a fatal condition and an outcome that leaves the core running, a halted state is the fatal condition, which is
precise (R230). -/
theorem State.raised_of_halted {cause : HaltCause} {info : Option Nat} (h : t = s.raise cause info ∨ t = u)
    (hu : u.halted = false) (hh : t.halted = true) :
    t.haltCause = cause ∧ Preserves { halt := True, ports := True } s t := by
  obtain rfl | rfl := h
  · obtain ⟨-, hcause, -, hframe⟩ := s.haltsWith_raise cause info
    exact ⟨hcause, hframe⟩
  · exact absurd hh (Bool.eq_false_iff.1 hu)

/-- The only answer to a key wait that halts a running core is the terminate signal, which is precise (R226, decision
D23). -/
theorem exec_ldKey_terminated_of_halted {x : Reg} (hr : s.ready) (h : exec (.ldKey x) s = .next t)
    (hh : t.halted = true) : t.haltCause = .terminated ∧ Preserves { halt := True, ports := True } s t := by
  obtain rfl := Host.Outcome.next.inj h
  have hrun : (s.keyWait x).halted ≠ s.halted := by simp [hh, hr.1]
  cases ha : s.keyAnswer with
  | key k =>
    obtain ⟨-, -, -, hframe⟩ := State.keyWait_of_key (x := x) ha
    exact absurd (hframe.halted id) hrun
  | terminate =>
    obtain ⟨-, hterminate, -⟩ := keyWaitStoresKeyHaltsOrBlocks x s hr
    obtain ⟨_, e, ⟨-, hcause, -⟩, hframe⟩ := hterminate ha
    obtain rfl := Host.Outcome.next.inj e
    exact ⟨hcause, hframe⟩
  | notYet =>
    obtain ⟨-, -, hframe⟩ := State.keyWait_of_notYet (x := x) ha
    exact absurd (hframe.halted id) hrun

/-- Settles O51, instruction by instruction: six have a fatal condition beside an outcome that leaves the core running,
`LD Vx, K` has the terminate signal, and the others write no halt. -/
theorem onlyListedConditionsHalt : Obligations.OnlyListedConditionsHalt := by
  intro i s t hr h hh
  have hs : s.halted = false := hr.1
  cases i with
  | ret =>
    obtain ⟨hcause, hframe⟩ := State.raised_of_halted (eq_or_eq_of_guarded h) (by simp [hs]) hh
    exact ⟨.inl ⟨rfl, hcause⟩, hframe⟩
  | call nnn =>
    obtain ⟨hcause, hframe⟩ := State.raised_of_halted (eq_or_eq_of_guarded h) (by simp [hs]) hh
    exact ⟨.inr (.inl ⟨nnn, rfl, hcause⟩), hframe⟩
  | ldKey x =>
    obtain ⟨hcause, hframe⟩ := exec_ldKey_terminated_of_halted hr h hh
    exact ⟨.inr (.inr (.inl ⟨x, rfl, hcause⟩)), hframe⟩
  | bcd x | storeRegs x | loadRegs x =>
    obtain ⟨hcause, hframe⟩ := State.raised_of_halted (eq_or_eq_of_guarded h).symm (by simp [hs]) hh
    exact ⟨.inr (.inr (.inr ⟨.inl ⟨x, by simp⟩, hcause⟩)), hframe⟩
  | drw x y n =>
    obtain ⟨hcause, hframe⟩ := State.raised_of_halted (eq_or_eq_of_guarded h).symm (by simp [hs]) hh
    exact ⟨.inr (.inr (.inr ⟨.inr ⟨x, y, n, rfl⟩, hcause⟩)), hframe⟩
  | _ =>
    obtain rfl := Host.Outcome.next.inj h
    simp [hs] at hh

end Sys2Proof.Machine
end

section
/-! Reset and who writes `VF` (R261, R265, R271): the memory a machine is constructed with, the times its cycles record,
and the instructions that can change `VF`. -/

namespace Sys2Proof.Machine

/-! ### Construction -/

/-- A constructed machine is the initial state with the image stored over it, and the image fits (R261, R263). -/
theorem State.eq_of_construct {p : Config.Params} {image : List Byte} {s : State}
    (h : State.construct p image = some s) :
    image.length ≤ 3584 ∧ s = (State.initial p).writeBytes Config.progBase image := by
  by_cases hfit : image.length ≤ 3584
  · exact ⟨hfit, Option.some.inj (h.symm.trans (State.construct_of_fits p hfit))⟩
  · rw [State.construct_of_too_long p (Nat.lt_of_not_le hfit)] at h
    cases h

/-- Before the image is loaded memory holds the glyph table and zeros (R261). -/
theorem State.initial_readByte (p : Config.Params) (a : Nat) :
    (State.initial p).readByte a = if h : a < 80 then p.glyphs[a] else 0 := rfl

/-- Settles O57: an address the image covers reads back what was stored, and the image leaves every other as it was. -/
theorem memoryAtReset : Obligations.MemoryAtReset := by
  intro p image s h a _
  obtain ⟨hfit, rfl⟩ := State.eq_of_construct h
  by_cases hin : 0x200 ≤ a ∧ a < 0x200 + image.length
  · obtain ⟨k, rfl⟩ := Nat.exists_eq_add_of_le hin.1
    have hk : k < image.length := by omega
    have hstored : ((State.initial p).writeBytes Config.progBase image).readByte (0x200 + k) = image[k] :=
      (State.initial p).readByte_writeBytes_inside _ image k hk (State.initial_inv p).memory
        (by simp only [Config.progBase, Config.memSize]; omega)
    have hnotGlyph : ¬ 0x200 + k < 80 := by omega
    simp [hstored, hnotGlyph, hk]
  · have hout : a < Config.progBase ∨ Config.progBase + image.length ≤ a := by
      simp only [Config.progBase]
      omega
    rw [State.readByte_writeBytes_outside _ _ _ _ hout, State.initial_readByte, if_neg hin]

/-! ### The times a cycle records -/

/-- The tick time is `now` exactly where the timer gate is open (R92). -/
theorem State.timed_lastTimerTick_eq (s : State) :
    s.timed.lastTimerTick =
      if s.params.timerIntervalNs < s.hostCall.now.toNat - s.lastTimerTick.toNat then s.hostCall.now
      else s.lastTimerTick := by
  split
  · obtain ⟨-, -, h, -⟩ := s.timed_of_tick ‹_›
    exact h
  · obtain ⟨-, -, h, -⟩ := s.timed_of_no_tick ‹_›
    exact h

/-- In a cycle of a ready core the timer part alone writes the tick time. -/
theorem step_lastTimerTick {s t : State} (hr : s.ready) (h : step s = .next t) :
    t.lastTimerTick = s.timed.lastTimerTick := by
  obtain ⟨x, hw, -⟩ | ⟨-, hh, -⟩ | ⟨-, -, rfl⟩ | ⟨-, -, -, rfl⟩ | ⟨-, -, rfl⟩ | ⟨i, u, -, hu, rfl⟩ := step_cases h
  · cases hr.2.symm.trans hw -- a ready core is not blocked
  · cases hr.1.symm.trans hh -- a ready core has not halted
  · simp -- the instruction gate is shut
  · simp -- the fetch is out of bounds
  · simp -- the word is no instruction
  · obtain ⟨htick, -, -⟩ := exec_time_tone hu -- an instruction runs
    simp [htick]

/-- Where a word can be fetched, the instruction time is `now` exactly where the instruction gate is open (R93, R96). -/
theorem step_lastInstrTime {s t : State} (hr : s.ready) (hpc : s.pc.toNat ≤ 4094) (h : step s = .next t) :
    t.lastInstrTime =
      if s.params.instrIntervalNs < s.hostCall.now.toNat - s.lastInstrTime.toNat then s.hostCall.now
      else s.lastInstrTime := by
  simp only [← s.timed_instrGate]
  obtain ⟨x, hw, -⟩ | ⟨-, hh, -⟩ | ⟨-, hg, rfl⟩ | ⟨-, -, hb, -⟩ | ⟨⟨-, hg, -⟩, -, rfl⟩ |
    ⟨i, u, ⟨⟨-, hg, -⟩, -⟩, hu, rfl⟩ := step_cases h
  · cases hr.2.symm.trans hw -- a ready core is not blocked
  · cases hr.1.symm.trans hh -- a ready core has not halted
  · simp [hg] -- the instruction gate is shut
  · -- the fetch is in bounds
    exact absurd (s.timed.pcInBounds_iff.2 (by rw [s.timed_pc]; omega)) (Bool.eq_false_iff.1 hb)
  · simp [hg] -- the word is no instruction
  · obtain ⟨-, hinstr, -⟩ := exec_time_tone hu -- an instruction runs
    simp [hg, hinstr]

/-- Behind a shut instruction gate a cycle of a core whose display flags are clear writes the timer part and the ports
alone (R91, R92). -/
theorem preserves_step_of_shut {s t : State} (hr : s.ready) (hdirty : s.displayDirty = false)
    (hcleared : s.displayCleared = false)
    (hshut : s.hostCall.now.toNat - s.lastInstrTime.toNat ≤ s.params.instrIntervalNs) (h : step s = .next t) :
    Preserves { dt := True, st := True, toneOn := True, lastTimerTick := True, ports := True } s t := by
  obtain rfl := Host.Outcome.next.inj ((step_of_shut s hr hshut).symm.trans h)
  have htimed : Preserves { dt := True, st := True, toneOn := True, lastTimerTick := True, ports := True } s s.timed :=
    { s.preserves_timed with
      displayDirty := fun _ => s.timed_displayDirty.trans hdirty.symm
      displayCleared := fun _ => s.timed_displayCleared.trans hcleared.symm }
  exact htimed.trans (s.timed.preserves_endCycle trivial)

/-- What a cycle of a ready core does by how far `now` has passed each of the two times (R92, R93, R96): until the
interval is exceeded its time stays, and with it what its gate would let change. -/
theorem step_by_elapsed {s : State} (hr : s.ready) (hpc : s.pc.toNat ≤ 4094) (hdirty : s.displayDirty = false)
    (hcleared : s.displayCleared = false) :
    ∃ t, step s = .next t ∧
      (s.hostCall.now.toNat ≤ s.lastInstrTime.toNat + s.params.instrIntervalNs →
        Preserves { dt := True, st := True, toneOn := True, lastTimerTick := True, ports := True } s t) ∧
      (s.hostCall.now.toNat ≤ s.lastTimerTick.toNat + s.params.timerIntervalNs →
        t.lastTimerTick = s.lastTimerTick ∧ t.toneOn = false) ∧
      (s.lastInstrTime.toNat + s.params.instrIntervalNs < s.hostCall.now.toNat → t.lastInstrTime = s.hostCall.now) ∧
      (s.lastTimerTick.toNat + s.params.timerIntervalNs < s.hostCall.now.toNat → t.lastTimerTick = s.hostCall.now) := by
  obtain ⟨t, h⟩ := step_of_ready_answers_next hr
  have htick := step_lastTimerTick hr h
  obtain ⟨-, -, htone⟩ := step_flags hr h
  refine ⟨t, h, fun hle => ?_, fun hle => ?_, fun hlt => ?_, fun hlt => ?_⟩
  · exact preserves_step_of_shut hr hdirty hcleared (by omega) h
  · obtain ⟨-, -, hkept, hquiet⟩ := s.timed_of_no_tick (by omega)
    exact ⟨htick.trans hkept, htone.trans hquiet⟩
  · rw [step_lastInstrTime hr hpc h, if_pos (by omega)]
  · rw [htick, s.timed_lastTimerTick_eq, if_pos (by omega)]

/-- Settles O59: a constructed core is ready at 0x200 with its flags clear and both times at `T_RESET`. -/
theorem nothingRunsBeforeTheFirstInterval : Obligations.NothingRunsBeforeTheFirstInterval := by
  refine ⟨fun p image built c rest hbuilt => ?_, fun s hr hpc => ?_⟩
  · obtain ⟨-, rfl⟩ := State.eq_of_construct hbuilt
    rw [State.writeBytes_eq]
    exact step_by_elapsed ⟨rfl, rfl⟩ (by decide : (0x200#16).toNat ≤ 4094) rfl rfl
  · obtain ⟨t, h⟩ := step_of_ready_answers_next hr
    exact ⟨t, h, step_lastInstrTime hr hpc h, (step_lastTimerTick hr h).trans s.timed_lastTimerTick_eq⟩

/-! ### Who writes `VF` -/

/-- A register write changes its destination only. -/
theorem State.eq_of_writeReg_ne {s : State} {x r : Reg} {b : Byte}
    (h : (s.writeReg x b).readReg r ≠ s.readReg r) : r = x := by
  by_contra hr
  exact h (s.readReg_writeReg_other hr b)

/-- A block load that changes `VF` reaches it: it loads all sixteen registers. -/
theorem State.eq_vf_of_loadBlock_ne {s : State} {x : Reg} (h : (s.loadBlock x).readReg 15 ≠ s.readReg 15) :
    x = 15 := by
  have hle : (15 : Reg) ≤ x := by
    by_contra hgt
    exact h ((s.preserves_loadBlock x).regs 15 hgt)
  exact (Fin.last_le_iff (n := 15)).1 hle

/-- A key wait changes the register a key is stored in only. -/
theorem State.eq_of_keyWait_ne {s : State} {x r : Reg} (h : (s.keyWait x).readReg r ≠ s.readReg r) : r = x := by
  obtain ⟨k, -, e⟩ | ⟨-, e⟩ | ⟨-, e⟩ := s.keyWait_cases x <;> rw [e] at h
  · exact State.eq_of_writeReg_ne (s := s.takeKeyAnswer) (by rwa [s.takeKeyAnswer_readReg])
  · exact absurd (s.takeKeyAnswer_readReg r) h
  · exact absurd (s.takeKeyAnswer_readReg r) h

/-- Settles O32, instruction by instruction: those that write one register must have `VF` as its destination, a block
load must reach it, and those that write no register leave it alone. -/
theorem flagRegisterWriters : Obligations.FlagRegisterWriters := by
  intro i s t h hne
  cases i with
  | addReg x y | subReg x y | shr x y | subnReg x y | shl x y => exact .inl ⟨x, y, by simp⟩
  | drw x y n => exact .inr (.inl ⟨x, y, n, rfl⟩)
  | ldImm x nn | addImm x nn =>
    obtain rfl := Host.Outcome.next.inj h
    obtain rfl := State.eq_of_writeReg_ne hne
    exact .inr (.inr (.inl ⟨nn, by simp⟩))
  | rnd x nn =>
    obtain rfl := Host.Outcome.next.inj h
    rw [← s.takeRandByte_readReg] at hne
    obtain rfl := State.eq_of_writeReg_ne hne
    exact .inr (.inr (.inl ⟨nn, by simp⟩))
  | ldReg x y | orReg x y | andReg x y | xorReg x y =>
    obtain rfl := Host.Outcome.next.inj h
    obtain rfl := State.eq_of_writeReg_ne hne
    exact .inr (.inr (.inr (.inl ⟨y, by simp⟩)))
  | ldFromDt x =>
    obtain rfl := Host.Outcome.next.inj h
    obtain rfl := State.eq_of_writeReg_ne hne
    simp
  | ldKey x =>
    obtain rfl := Host.Outcome.next.inj h
    obtain rfl := State.eq_of_keyWait_ne hne
    simp
  | loadRegs x =>
    obtain rfl | rfl := eq_or_eq_of_guarded h
    · obtain rfl := State.eq_vf_of_loadBlock_ne hne
      simp
    · exact absurd (s.raiseMemory_readReg 15) hne
  | ret | call | bcd | storeRegs =>
    refine absurd ?_ hne
    obtain rfl | rfl := eq_or_eq_of_guarded h <;> simp
  | _ =>
    refine absurd ?_ hne
    obtain rfl := Host.Outcome.next.inj h
    simp [State.readReg]

end Sys2Proof.Machine
end
